-- ==== Sys2Proof/Word.lean ====
section
/-! DEFINITION. The words of HUFCORE: the 32-bit bus word and the 8-bit symbol or buffer byte. -/

namespace Sys2Proof

/-- A bus word, a command word and a 32-bit register (20_memory.md R80, 30_encoding.md R120). -/
abbrev Word := BitVec 32

/-- A symbol (00_scope.md R8) or one byte of IBUF or OBUF (10_state.md R54, R55). -/
abbrev Byte := BitVec 8

end Sys2Proof
end

