-- ==== Sys2Proof/Config.lean ====
section
/-! DEFINITION. The build-time parameters of an instance, the derived constants, and the free values. -/

namespace Sys2Proof

/-- Where bit k of the stream sits in its byte (00_scope.md R10). -/
inductive BitOrder where
  | msbFirst
  | lsbFirst
  deriving DecidableEq, Repr

/-- RESET_POLARITY (92_eei_decisions.md D44): a parameter that no rule reads. -/
inductive ResetPolarity where
  | activeHigh
  | activeLow
  deriving DecidableEq, Repr

/-- The build-time parameters of one instance (00_scope.md R8-R13, 93_implementation_defined.md P1-P5). -/
structure Config where
  /-- CNT_W (R9). -/
  cntW : Nat
  /-- BIT_ORDER (R10). -/
  bitOrder : BitOrder
  /-- IBUF_SIZE in bytes (R11). -/
  ibufSize : Nat
  /-- OBUF_SIZE in bytes (R11). -/
  obufSize : Nat
  /-- HUFCORE_BASE (R94, D3): where the platform puts the block's 64 KiB window. -/
  base : Nat
  /-- RESET_POLARITY (D44). -/
  resetPolarity : ResetPolarity
  deriving DecidableEq, Repr

namespace Config

/-- The default instance (00_scope.md R13). The base and the polarity have no default in the spec:
DESIGN CHOICE, log entry 16; no rule reads either. -/
def default : Config where
  cntW := 32
  bitOrder := .msbFirst
  ibufSize := 4096
  obufSize := 4096
  base := 0
  resetPolarity := .activeHigh

/-- The ranges of the parameters (R9, R11, P4). -/
def wf (c : Config) : Bool :=
  decide (1 ≤ c.cntW) && decide (c.cntW ≤ 32)
    && decide (1 ≤ c.ibufSize) && decide (c.ibufSize ≤ 4096)
    && decide (1 ≤ c.obufSize) && decide (c.obufSize ≤ 4096)
    && decide (c.base % 65536 = 0)

/-- CMAX, the largest count a bin or TOTAL may hold (R9). -/
def cmax (c : Config) : Nat := 2 ^ c.cntW - 1

/-- The platform's address of the block's offset `a` (R94, P4). -/
def platformAddress (c : Config) (a : BitVec 16) : Nat := c.base + a.toNat

/-- A free byte: draw number k (93_implementation_defined.md U1, U2, U4; log entry 4). -/
opaque freeByte : Nat → Byte

/-- A free word: draw number k (93_implementation_defined.md U1, U3; log entry 4). -/
opaque freeWord : Nat → Word

end Config

/-- NSYM (00_scope.md R8). -/
def nsym : Nat := 256

/-- MAX_NODES (00_scope.md R12). -/
def maxNodes : Nat := 511

/-- NONE, the sentinel node index (00_scope.md R12). -/
def nodeNone : Nat := 0x1FF

end Sys2Proof
end

