-- ==== Sys2Proof/Machine/State.lean ====
section
/-! DEFINITION. The state of HUFCORE as plain data (10_state.md), the inputs that reach it, how a step can
stop, and the state after reset. -/

namespace Sys2Proof.Machine

/-- The error codes of STATUS.ERRCODE (60_exceptions.md R300). The codes 0x09-0xFF are never reported (V4),
so they have no constructor. -/
inductive ErrCode where
  /-- 0x00: no error latched. -/
  | none
  /-- 0x01: the command word matches no row. -/
  | illegalCmd
  /-- 0x02: TOTAL or a SET_BIN count would exceed CMAX. -/
  | countOverflow
  /-- 0x03: a validity flag the command needs is 0. -/
  | notReady
  /-- 0x04: CODE_LEN[SYM] = 0 for WRITE_CODE. -/
  | unknownSymbol
  /-- 0x05: a read needs a bit at a position >= 8 * IN_LEN. -/
  | truncatedStream
  /-- 0x06: a write would complete a byte beyond OBUF_SIZE. -/
  | obufFull
  /-- 0x07: a bit write to a closed writer. -/
  | writeClosed
  /-- 0x08: a 1 bit where the single-leaf code "0" is expected. -/
  | badCode
  deriving DecidableEq, Repr

/-- One host access (20_memory.md R82): the block's 16-bit byte address, the width in bytes, and the data of
a write. Only width 4 at an aligned address is served (R83). -/
inductive Access where
  | read (size : Nat) (addr : BitVec 16)
  | write (size : Nat) (addr : BitVec 16) (data : Word)
  deriving DecidableEq, Repr

/-- One entry of the total order of 20_memory.md R95: who moves next. -/
inductive Turn where
  /-- The host makes this access. -/
  | host (a : Access)
  /-- The engine may take its step (40_control.md R150). -/
  | engine
  /-- The reset input is asserted (70_reset_and_hazards.md R340). -/
  | assertReset
  /-- The reset input is released. -/
  | releaseReset
  deriving DecidableEq, Repr

/-- The bus outcome of an access (20_memory.md R82). -/
inductive BusOutcome where
  | ok
  | busErr
  deriving DecidableEq, Repr

/-- What the host gets back for an access (20_memory.md R82): the outcome, and a read's data (0 for a write
and for BUS_ERR). -/
structure Reply where
  outcome : BusOutcome
  data : Word
  deriving DecidableEq, Repr

/-- An array of cells, each holding a value or none (10_state.md R59, D31, D41): the cells that hold a value,
as (index, value) pairs. An unlisted cell holds no value. `Cells.wf` (Machine/Cells.lean) is its canonical
form. -/
abbrev Cells (α : Type) := List (Nat × α)

/-- The byte buffers IBUF and OBUF are memories of `Host.Cell`s. -/
abbrev Memory := Cells Byte

/-- Everything the spec gives the machine (10_state.md), and the model's own fields at the end.
STATUS.BUSY is not stored: it reads 1 exactly when PENDING holds a command (R56). CMD holds no state (R35);
ID, CONFIG and the size registers are constants of `cfg` (R31, R33, R34). -/
structure State where
  /-- The instance's parameters; nothing changes them (log entry 1). -/
  cfg : Config
  /-- PENDING (R56). -/
  pending : Option Word
  /-- STATUS.ERR (R36). -/
  err : Bool
  /-- STATUS.DROP (R36). -/
  drop : Bool
  /-- STATUS.HIST_VALID (R36). -/
  histValid : Bool
  /-- STATUS.TABLE_VALID (R36). -/
  tableValid : Bool
  /-- STATUS.TREE_VALID (R36). -/
  treeValid : Bool
  /-- STATUS.CODES_VALID (R36). -/
  codesValid : Bool
  /-- STATUS.WR_CLOSED (R36). -/
  wrClosed : Bool
  /-- STATUS.ERRCODE (R36, R300). -/
  errcode : ErrCode
  /-- ARG (R38). -/
  arg : Word
  /-- RESULT (R39). -/
  result : Word
  /-- ERR_CMD (R40). -/
  errCmd : Word
  /-- TOTAL (R41), CNT_W bits, zero-extended. -/
  total : Word
  /-- NSYMS (R42). -/
  nsyms : BitVec 9
  /-- NNODES (R43). -/
  nnodes : BitVec 10
  /-- ROOT (R44). -/
  root : BitVec 9
  /-- OUT_BYTES (R45). -/
  outBytes : BitVec 13
  /-- WR_NBITS (R46). -/
  wrNbits : BitVec 3
  /-- WR_ACC (R47). -/
  wrAcc : Byte
  /-- IN_LEN (R48). -/
  inLen : BitVec 13
  /-- RD_POS (R49). -/
  rdPos : BitVec 16
  /-- HIST[0..255] (R50), CNT_W bits each, zero-extended. -/
  hist : Cells Word
  /-- FT_SYM[0..255] (R51). -/
  ftSym : Cells Byte
  /-- FT_CNT[0..255] (R51), CNT_W bits each, zero-extended. -/
  ftCnt : Cells Word
  /-- NODE_W[0..510] (R52), CNT_W bits each, zero-extended. -/
  nodeW : Cells Word
  /-- NODE_INFO[0..510] (R52). -/
  nodeInfo : Cells Word
  /-- CODE_LEN[0..255] (R53). -/
  codeLen : Cells Byte
  /-- CODE_BITS[s][w] (R53) at index 8 * s + w. -/
  codeBits : Cells Word
  /-- IBUF[0..IBUF_SIZE-1] (R54). -/
  ibuf : Memory
  /-- OBUF[0..OBUF_SIZE-1] (R55). -/
  obuf : Memory
  /-- The model's own: the reset input is asserted (log entry 14). -/
  inReset : Bool
  /-- The model's own: who moves next, in order; the inputs from outside (log entry 2). -/
  turns : List Turn
  /-- The model's own: the reply to the host's last access (log entry 15). -/
  reply : Option Reply
  /-- The model's own: the number of the next free value (log entry 4). -/
  draws : Nat
  deriving DecidableEq, Repr

/-- How a step can stop with a fault. Command errors are no faults: they are taken (60_exceptions.md R302).
BUS_ERR is no fault: it is the host's reply (R82). -/
inductive Fault where
  /-- Raised by ASSIGN_CODES when the walk of 44_codes.md R251 goes deeper than MAX_NODES nodes, so that
  NODE_INFO is no tree and the walk has no end. No state a run reaches has such a NODE_INFO (43_tree.md R233).
  Safe: the spec gives the walk no result there (log entry 10). -/
  | endlessTreeWalk
  deriving DecidableEq, Repr

/-- How a step can refuse. -/
inductive Refusal where
  /-- Raised by the dispatch for a command without a meaning in the model. Safe. No arm raises it. -/
  | notModelled (mnemonic : String)
  /-- Raised by a host access made while reset is asserted: it has no defined outcome
  (70_reset_and_hazards.md R342; 93_implementation_defined.md U5 'refuse'). Safe. -/
  | accessDuringReset
  deriving DecidableEq, Repr

/-- What a command's meaning answers. -/
abbrev Result := Host.Outcome State Fault Refusal

/-- The reset state of an instance (10_state.md R59, 70_reset_and_hazards.md R340). The arrays hold no
value. The last four fields are the model's own (DESIGN CHOICE, log entries 2, 4, 14, 15). -/
def State.resetOf (cfg : Config) : State where
  cfg := cfg
  pending := none
  err := false
  drop := false
  histValid := false
  tableValid := false
  treeValid := false
  codesValid := false
  wrClosed := false
  errcode := .none
  arg := 0
  result := 0
  errCmd := 0
  total := 0
  nsyms := 0
  nnodes := 0
  root := 0x1FF
  outBytes := 0
  wrNbits := 0
  wrAcc := 0
  inLen := 0
  rdPos := 0
  hist := []
  ftSym := []
  ftCnt := []
  nodeW := []
  nodeInfo := []
  codeLen := []
  codeBits := []
  ibuf := []
  obuf := []
  inReset := false
  turns := []
  reply := none
  draws := 0

/-- The default instance right after reset (00_scope.md R13). -/
def State.reset : State := State.resetOf Config.default

end Sys2Proof.Machine
end

