-- ==== Sys2Proof/Machine/Flags.lean ====
section
/-! DEFINITION. The STATUS register: its word, the host's write to it, and the flag changes that commands share. -/

namespace Sys2Proof.Machine

/-- The code of an error (60_exceptions.md R300). -/
def ErrCode.code : ErrCode → Byte
  | .none => 0x00
  | .illegalCmd => 0x01
  | .countOverflow => 0x02
  | .notReady => 0x03
  | .unknownSymbol => 0x04
  | .truncatedStream => 0x05
  | .obufFull => 0x06
  | .writeClosed => 0x07
  | .badCode => 0x08

/-- STATUS.BUSY: PENDING holds a command (10_state.md R56). -/
def State.busy (s : State) : Bool := s.pending.isSome

/-- The STATUS word (10_state.md R36): ERRCODE in 15:8, the flags in 7:0, bits 31:16 zero. -/
def statusWord (s : State) : Word :=
  0#16 ++ s.errcode.code ++ BitVec.ofBool s.wrClosed ++ BitVec.ofBool s.codesValid ++ BitVec.ofBool s.treeValid
    ++ BitVec.ofBool s.tableValid ++ BitVec.ofBool s.histValid ++ BitVec.ofBool s.drop ++ BitVec.ofBool s.err
    ++ BitVec.ofBool s.busy

/-- Return from error: the clear of ERR, ERRCODE and ERR_CMD (10_state.md R37, 60_exceptions.md R305). -/
def clearError (s : State) : State := { s with err := false, errcode := .none, errCmd := 0 }

/-- The clear of DROP (10_state.md R37). -/
def clearDrop (s : State) : State := { s with drop := false }

/-- A host write of v to STATUS (10_state.md R37). -/
def writeStatus (v : Word) (s : State) : State :=
  let s1 := if v.getLsbD 1 then clearError s else s
  if v.getLsbD 2 then clearDrop s1 else s1

/-- A dropped host write sets DROP and does nothing else (40_control.md R151, 70_reset_and_hazards.md R352). -/
def dropWrite (s : State) : State := { s with drop := true }

/-- HistChanged() (42_frequency.md R205). -/
def histChanged (s : State) : State :=
  { s with tableValid := false, treeValid := false, codesValid := false }

end Sys2Proof.Machine
end

