-- ==== Sys2Proof/Syntax.lean ====
section
/-! DEFINITION. The command set: one constructor per row of spec/opcode_table.json (30_encoding.md R124). -/

namespace Sys2Proof

/-- A command with its operands assembled (30_encoding.md R123): a bit `b`, a symbol `s`, or a bit count
`n` in 1..32 (N5 + 1). The order is the table's. -/
inductive Instr where
  | nop
  | wrReset
  | writeBit (b : Bool)
  | writeBits (n : Nat)
  | flush
  | close
  | rdReset
  | readBits (n : Nat)
  | rdAlign
  | clearHist
  | scanSym (s : Byte)
  | scanBuf
  | setBin (s : Byte)
  | makeTable
  | buildTree
  | assignCodes
  | writeCode (s : Byte)
  | decodeSym
  deriving DecidableEq, Repr

end Sys2Proof
end

