-- ==== Sys2Proof/WellFormed.lean ====
section
/-! DEFINITION. Which commands have an encoding: the bit count of a format FN command is 1..32. -/

namespace Sys2Proof

/-- The bit counts N5 + 1 can express (30_encoding.md R123). -/
def countOk (n : Nat) : Bool := decide (1 ≤ n) && decide (n ≤ 32)

/-- Well-formed commands: those some command word encodes (30_encoding.md R122, R123). The bit and the
symbol operands have exactly their field's values, so only a bit count needs a check. -/
def Instr.wf : Instr → Bool
  | .writeBits n => countOk n
  | .readBits n => countOk n
  | .nop | .wrReset | .writeBit _ | .flush | .close | .rdReset | .rdAlign | .clearHist | .scanSym _
  | .scanBuf | .setBin _ | .makeTable | .buildTree | .assignCodes | .writeCode _ | .decodeSym => true

end Sys2Proof
end

