-- ==== Sys2Proof/Decode.lean ====
section
/-! DEFINITION. Decoding a command word by the table of 30_encoding.md R124, total on all words and
rejecting by name, and the encoder written from the same table. -/

namespace Sys2Proof

/-! ### Fields of the command word (30_encoding.md R121) -/

/-- OP = c[7:0]. -/
def fieldOp (c : Word) : Byte := c.extractLsb' 0 8

/-- A8 = c[15:8]: the symbol operand SYM of format FS (R123). -/
def fieldSym (c : Word) : Byte := c.extractLsb' 8 8

/-- B = c[8]: the bit operand of format FB (R123). -/
def fieldB (c : Word) : Bool := c.getLsbD 8

/-- N5 = c[20:16]. -/
def fieldN5 (c : Word) : BitVec 5 := c.extractLsb' 16 5

/-- RSV = c[31:21]. -/
def fieldRsv (c : Word) : BitVec 11 := c.extractLsb' 21 11

/-- n = N5 + 1, the bit count of format FN (R123). -/
def countOf (c : Word) : Nat := (fieldN5 c).toNat + 1

/-! ### The table -/

/-- The four formats (30_encoding.md R122). -/
inductive Format where
  | f0
  | fb
  | fs
  | fn
  deriving DecidableEq, Repr

/-- The mask of a format (30_encoding.md R122). -/
def Format.mask : Format → Word
  | .f0 => 0xFFFFFFFF
  | .fb => 0xFFFFFEFF
  | .fs => 0xFFFF00FF
  | .fn => 0xFFE0FFFF

/-- A row of 30_encoding.md R124: its format, its match word, and the command a matching word stands for,
with the operands of R123. -/
structure OpRow where
  format : Format
  bits : Word
  instr : Word → Instr

/-- A word is an instruction of a row when its masked bits are the row's match (30_encoding.md R125). -/
def OpRow.hits (r : OpRow) (c : Word) : Bool := c &&& r.format.mask == r.bits

/-- The table of 30_encoding.md R124, in its order. -/
def opTable : List OpRow :=
  [ ⟨.f0, 0x00000000, fun _ => .nop⟩,
    ⟨.f0, 0x00000010, fun _ => .wrReset⟩,
    ⟨.fb, 0x00000011, fun c => .writeBit (fieldB c)⟩,
    ⟨.fn, 0x00000012, fun c => .writeBits (countOf c)⟩,
    ⟨.f0, 0x00000013, fun _ => .flush⟩,
    ⟨.f0, 0x00000014, fun _ => .close⟩,
    ⟨.f0, 0x00000018, fun _ => .rdReset⟩,
    ⟨.fn, 0x00000019, fun c => .readBits (countOf c)⟩,
    ⟨.f0, 0x0000001A, fun _ => .rdAlign⟩,
    ⟨.f0, 0x00000020, fun _ => .clearHist⟩,
    ⟨.fs, 0x00000021, fun c => .scanSym (fieldSym c)⟩,
    ⟨.f0, 0x00000022, fun _ => .scanBuf⟩,
    ⟨.fs, 0x00000023, fun c => .setBin (fieldSym c)⟩,
    ⟨.f0, 0x00000024, fun _ => .makeTable⟩,
    ⟨.f0, 0x00000030, fun _ => .buildTree⟩,
    ⟨.f0, 0x00000040, fun _ => .assignCodes⟩,
    ⟨.fs, 0x00000050, fun c => .writeCode (fieldSym c)⟩,
    ⟨.f0, 0x00000051, fun _ => .decodeSym⟩ ]

/-- Why a word is no command: the kinds of 30_encoding.md R126. All of them raise ILLEGAL_CMD. -/
inductive IllegalWord where
  /-- The OP value is in no row. -/
  | unassignedOpcode (op : Byte)
  /-- The OP value is assigned and RSV (bits 31:21) is not 0. -/
  | nonzeroReserved (rsv : BitVec 11)
  /-- The OP value is assigned, RSV is 0, and a field the format does not use is not 0. -/
  | nonzeroUnusedField (op : Byte)
  deriving DecidableEq, Repr

/-- The name of the rejection of a word that no row matches (30_encoding.md R126). -/
def whyIllegal (c : Word) : IllegalWord :=
  if opTable.all fun r => fieldOp r.bits != fieldOp c then .unassignedOpcode (fieldOp c)
  else if fieldRsv c != 0 then .nonzeroReserved (fieldRsv c)
  else .nonzeroUnusedField (fieldOp c)

/-- The decoder (30_encoding.md R125): the row that matches, or a rejection by name. -/
def decode (c : Word) : Except IllegalWord Instr :=
  match opTable.find? fun r => r.hits c with
  | some r => .ok (r.instr c)
  | none => .error (whyIllegal c)

/-! ### The encoder -/

/-- A format F0 word: the match alone (30_encoding.md R122). -/
def wordF0 (m : Word) : Word := m

/-- A format FB word: B in bit 8. -/
def wordFB (m : Word) (b : Bool) : Word := m ||| ((BitVec.ofBool b).setWidth 32 <<< 8)

/-- A format FS word: SYM in bits 15:8. -/
def wordFS (m : Word) (s : Byte) : Word := m ||| (s.setWidth 32 <<< 8)

/-- A format FN word: N5 = n - 1 in bits 20:16. -/
def wordFN (m : Word) (n : Nat) : Word := m ||| ((BitVec.ofNat 5 (n - 1)).setWidth 32 <<< 16)

/-- The word of a command, `match | operand fields` (30_encoding.md R124). -/
def encode : Instr → Word
  | .nop => wordF0 0x00000000
  | .wrReset => wordF0 0x00000010
  | .writeBit b => wordFB 0x00000011 b
  | .writeBits n => wordFN 0x00000012 n
  | .flush => wordF0 0x00000013
  | .close => wordF0 0x00000014
  | .rdReset => wordF0 0x00000018
  | .readBits n => wordFN 0x00000019 n
  | .rdAlign => wordF0 0x0000001A
  | .clearHist => wordF0 0x00000020
  | .scanSym s => wordFS 0x00000021 s
  | .scanBuf => wordF0 0x00000022
  | .setBin s => wordFS 0x00000023 s
  | .makeTable => wordF0 0x00000024
  | .buildTree => wordF0 0x00000030
  | .assignCodes => wordF0 0x00000040
  | .writeCode s => wordFS 0x00000050 s
  | .decodeSym => wordF0 0x00000051

/-- The command word the host's table numbers: the low `nbits` bits of `w`, the bits above them 0. -/
def tableWord (nbits w : Nat) : Word := BitVec.ofNat 32 (w % 2 ^ nbits)

/-- What the decoder reads from the table's word: a command is exactly one 32-bit word (30_encoding.md
R120), moved whole over the bus, so there is no byte order to lay out (20_memory.md R91). -/
def decodeTableWord (nbits w : Nat) : Option Instr :=
  match decode (tableWord nbits w) with
  | .ok i => some i
  | .error _ => none

end Sys2Proof
end

