-- ==== Sys2Proof/Machine/Cells.lean ====
section
/-! DEFINITION. Arrays of cells that hold a value or none: reading, writing, filling, and the canonical form. -/

namespace Sys2Proof.Machine

/-- The value cell k holds, or none. -/
def Cells.read {α : Type} : Cells α → Nat → Option α
  | [], _ => none
  | (j, v) :: m, k => if j = k then some v else Cells.read m k

/-- Cell k set to v, at its place in index order. -/
def Cells.write {α : Type} : Cells α → Nat → α → Cells α
  | [], k, v => [(k, v)]
  | (j, w) :: m, k, v =>
    if k < j then (k, v) :: (j, w) :: m
    else if k = j then (k, v) :: m
    else (j, w) :: Cells.write m k v

/-- The array whose cells 0..n-1 hold f 0, ..., f (n-1). -/
def Cells.fill {α : Type} (n : Nat) (f : Nat → α) : Cells α :=
  (List.range n).map fun i => (i, f i)

/-- Every listed index is above k and the indices rise strictly. -/
def Cells.risesAbove {α : Type} : Nat → Cells α → Bool
  | _, [] => true
  | k, (j, _) :: m => decide (k < j) && Cells.risesAbove j m

/-- The canonical form: indices strictly rising. An unlisted cell holds no value, so no entry can equal what
an unlisted cell reads as. -/
def Cells.wf {α : Type} : Cells α → Bool
  | [] => true
  | (j, _) :: m => Cells.risesAbove j m

/-- Every listed index is below n. -/
def Cells.below {α : Type} (n : Nat) (m : Cells α) : Bool := m.all fun e => decide (e.1 < n)

/-- The canonical form of a byte buffer. -/
abbrev Memory.wf (m : Memory) : Bool := Cells.wf m

/-- Every array of the state is in canonical form and lists only cells the array has
(10_state.md R50-R55, 00_scope.md R12). -/
def State.memWf (s : State) : Bool :=
  (Cells.wf s.hist && Cells.below nsym s.hist)
    && (Cells.wf s.ftSym && Cells.below nsym s.ftSym)
    && (Cells.wf s.ftCnt && Cells.below nsym s.ftCnt)
    && (Cells.wf s.nodeW && Cells.below maxNodes s.nodeW)
    && (Cells.wf s.nodeInfo && Cells.below maxNodes s.nodeInfo)
    && (Cells.wf s.codeLen && Cells.below nsym s.codeLen)
    && (Cells.wf s.codeBits && Cells.below (8 * nsym) s.codeBits)
    && (Memory.wf s.ibuf && Cells.below s.cfg.ibufSize s.ibuf)
    && (Memory.wf s.obuf && Cells.below s.cfg.obufSize s.obuf)

end Sys2Proof.Machine
end

