-- ==== Sys2Proof/Machine/Operands.lean ====
section
/-! DEFINITION. The values commands work on: bit sequences of words, the place of a bit in its byte, counts,
the fields of a NODE_INFO word, and reads of array cells by the engine. -/

namespace Sys2Proof.Machine

/-! ### Bit sequences -/

/-- The number a bit sequence spells, its first bit most significant (41_bitstream.md R171). -/
def bitsToNat (bits : List Bool) : Nat := bits.foldl (fun v b => 2 * v + b.toNat) 0

/-- ARG[n-1], ARG[n-2], ..., ARG[0] (41_bitstream.md R165). -/
def argBits (arg : Word) (n : Nat) : List Bool :=
  (List.range n).map fun i => arg.getLsbD (n - 1 - i)

/-- pos(j): where the j-th bit of a byte lies (41_bitstream.md R160). -/
def bitPos (o : BitOrder) (j : Nat) : Nat :=
  match o with
  | .msbFirst => 7 - j
  | .lsbFirst => j

/-- `v[i] <- b` on a byte. -/
def setBit (v : Byte) (i : Nat) (b : Bool) : Byte :=
  if b then v ||| BitVec.twoPow 8 i else v &&& ~~~(BitVec.twoPow 8 i)

/-! ### Counts -/

/-- A count as a CNT_W-bit cell holds it (00_scope.md R9). No rule stores a count above CMAX in a state a run
reaches (R19; log entry 11). -/
def storeCount (cfg : Config) (n : Nat) : Word := BitVec.ofNat 32 (n % 2 ^ cfg.cntW)

/-! ### Cells that may hold no value (10_state.md R59, log entry 4) -/

/-- A CNT_W-bit cell: its value, or a free CNT_W-bit value. -/
def countCell (s : State) (m : Cells Word) (k : Nat) : Word :=
  match Cells.read m k with
  | some v => v
  | none => storeCount s.cfg (Config.freeWord (s.draws + k)).toNat

/-- A 32-bit cell: its value, or a free word. -/
def wordCell (s : State) (m : Cells Word) (k : Nat) : Word :=
  match Cells.read m k with
  | some v => v
  | none => Config.freeWord (s.draws + k)

/-- An 8-bit cell: its value, or free byte number i of this access or command. -/
def byteCell (s : State) (m : Cells Byte) (k i : Nat) : Byte :=
  match Cells.read m k with
  | some v => v
  | none => Config.freeByte (s.draws + i)

/-- HIST[k] as a count. -/
def histCount (s : State) (k : Nat) : Nat := (countCell s s.hist k).toNat

/-- CODE_LEN[c]. -/
def codeLength (s : State) (c : Byte) : Nat := (byteCell s s.codeLen c.toNat c.toNat).toNat

/-- Code bit k of symbol c: `CODE_BITS[c][k div 32][31 - (k mod 32)]` (10_state.md R53). -/
def codeBit (s : State) (c : Byte) (k : Nat) : Bool :=
  (wordCell s s.codeBits (8 * c.toNat + k / 32)).getLsbD (31 - k % 32)

/-- Code bits 0, ..., L-1 of symbol c (45_payload.md R270). -/
def codeSeq (s : State) (c : Byte) : List Bool := (List.range (codeLength s c)).map (codeBit s c)

/-! ### The input stream (41_bitstream.md R161, R170) -/

/-- AVAIL = 8 * IN_LEN. -/
def avail (s : State) : Nat := 8 * s.inLen.toNat

/-- InBit(p), as the command's i-th bit read: bit pos(p mod 8) of IBUF[p div 8], a byte never written being a
fresh free byte at each read. -/
def inBit (s : State) (p i : Nat) : Bool :=
  (byteCell s s.ibuf (p / 8) i).getLsbD (bitPos s.cfg.bitOrder (p % 8))

/-- The next n bits of the input stream from RD_POS. -/
def inBits (s : State) (n : Nat) : List Bool :=
  (List.range n).map fun i => inBit s (s.rdPos.toNat + i) i

/-! ### NODE_INFO words (10_state.md R52) -/

/-- LEFT, bits 8:0. -/
def infoLeft (w : Word) : Nat := (w.extractLsb' 0 9).toNat

/-- RIGHT, bits 17:9. -/
def infoRight (w : Word) : Nat := (w.extractLsb' 9 9).toNat

/-- SYM, bits 25:18. -/
def infoSym (w : Word) : Byte := w.extractLsb' 18 8

/-- IS_LEAF, bit 31. -/
def infoLeaf (w : Word) : Bool := w.getLsbD 31

/-- LEFT for a 0 bit, RIGHT for a 1 bit (44_codes.md R252, 45_payload.md R271). -/
def infoChild (w : Word) (b : Bool) : Nat := if b then infoRight w else infoLeft w

/-- `{LEAF, 0b00000, SYM, R, L}` (43_tree.md R230). -/
def packInfo (leaf : Bool) (sym : Byte) (right left : Nat) : Word :=
  BitVec.ofBool leaf ++ 0#5 ++ sym ++ BitVec.ofNat 9 right ++ BitVec.ofNat 9 left

/-- NODE_INFO[j]. -/
def nodeInfoAt (s : State) (j : Nat) : Word := wordCell s s.nodeInfo j

end Sys2Proof.Machine
end

