-- ==== Sys2Proof/Machine/Ops.lean ====
section
/-! DEFINITION. The operations commands share: raising an error, drawing free values, appending bits to the
output stream, and consuming the pending command. -/

namespace Sys2Proof.Machine

/-- How many free values one command or one access may draw: more than any of them can (log entry 4). -/
def drawBlock : Nat := 65536

/-- A fresh block of free values for the command or access that follows. -/
def freshDraws (s : State) : State := { s with draws := s.draws + drawBlock }

/-- `raise E(c)` (60_exceptions.md R302): the error latch and the end of the command; nothing else changes. -/
def raise (e : ErrCode) (c : Word) (s : State) : State :=
  { s with err := true, errcode := e, errCmd := c, pending := none }

/-- A command that ends by raising an error: the machine goes on. -/
def fail (e : ErrCode) (c : Word) (s : State) : Result := .next (raise e c s)

/-- The engine takes the pending command (40_control.md R150): PENDING <- none, with a fresh block of draws. -/
def beginCommand (s : State) : State := freshDraws { s with pending := none }

/-! ### The writer -/

/-- The byte in WR_ACC goes to OBUF[OUT_BYTES]; the next byte starts empty (41_bitstream.md R162, R167). -/
def emitByte (s : State) : State :=
  { s with
    obuf := Cells.write s.obuf s.outBytes.toNat s.wrAcc
    outBytes := BitVec.ofNat 13 (s.outBytes.toNat + 1)
    wrAcc := 0
    wrNbits := 0 }

/-- PutBit(b) (41_bitstream.md R162). -/
def putBit (b : Bool) (s : State) : State :=
  let acc := setBit s.wrAcc (bitPos s.cfg.bitOrder s.wrNbits.toNat) b
  if s.wrNbits.toNat + 1 = 8 then emitByte { s with wrAcc := acc }
  else { s with wrAcc := acc, wrNbits := BitVec.ofNat 3 (s.wrNbits.toNat + 1) }

/-- PutBit of each bit in order. -/
def putBits (bits : List Bool) (s : State) : State := bits.foldl (fun t b => putBit b t) s

/-- WriteSeq(c, bits) (41_bitstream.md R163): the capacity check counts only the bytes the write completes. -/
def writeSeq (c : Word) (bits : List Bool) (s : State) : Result :=
  if s.wrClosed then fail .writeClosed c s
  else if s.outBytes.toNat + (s.wrNbits.toNat + bits.length) / 8 > s.cfg.obufSize then fail .obufFull c s
  else .next (putBits bits s)

/-- FLUSH has nothing to do at a byte boundary, and otherwise needs one free byte (41_bitstream.md R167). -/
def flushOverflows (s : State) : Bool :=
  s.wrNbits != 0 && decide (s.outBytes.toNat + 1 > s.cfg.obufSize)

/-- The effect of FLUSH once its check has passed. -/
def flushed (s : State) : State := if s.wrNbits = 0 then s else emitByte s

end Sys2Proof.Machine
end

