-- ==== Sys2Proof/Machine/Bus.lean ====
section
/-! DEFINITION. The host register bus (20_memory.md): the address map, reads, writes, and the acceptance of a
command. -/

namespace Sys2Proof.Machine

/-- What an address of the map names (20_memory.md R84). -/
inductive Target where
  | id
  | config
  | ibufSize
  | obufSize
  | cmd
  | status
  | arg
  | result
  | errCmd
  | total
  | nsyms
  | nnodes
  | root
  | outBytes
  | wrNbits
  | wrAcc
  | inLen
  | rdPos
  | hist (k : Nat)
  | ftSym (k : Nat)
  | ftCnt (k : Nat)
  | nodeW (k : Nat)
  | nodeInfo (k : Nat)
  | codeLen (k : Nat)
  /-- CODE_BITS[s][w] at k = 8 * s + w. -/
  | codeBits (k : Nat)
  | ibuf (k : Nat)
  | obuf (k : Nat)
  deriving DecidableEq, Repr

/-- A region of the address map: `count` words from byte address `base`, word k naming `target k`. -/
structure Region where
  base : Nat
  count : Nat
  target : Nat → Target

/-- The address map (20_memory.md R84). An address in no region is reserved (R85). -/
def addressMap (cfg : Config) : List Region :=
  [ ⟨0x0000, 1, fun _ => .id⟩,
    ⟨0x0004, 1, fun _ => .config⟩,
    ⟨0x0008, 1, fun _ => .ibufSize⟩,
    ⟨0x000C, 1, fun _ => .obufSize⟩,
    ⟨0x0010, 1, fun _ => .cmd⟩,
    ⟨0x0014, 1, fun _ => .status⟩,
    ⟨0x0018, 1, fun _ => .arg⟩,
    ⟨0x001C, 1, fun _ => .result⟩,
    ⟨0x0020, 1, fun _ => .errCmd⟩,
    ⟨0x0024, 1, fun _ => .total⟩,
    ⟨0x0028, 1, fun _ => .nsyms⟩,
    ⟨0x002C, 1, fun _ => .nnodes⟩,
    ⟨0x0030, 1, fun _ => .root⟩,
    ⟨0x0034, 1, fun _ => .outBytes⟩,
    ⟨0x0038, 1, fun _ => .wrNbits⟩,
    ⟨0x003C, 1, fun _ => .wrAcc⟩,
    ⟨0x0040, 1, fun _ => .inLen⟩,
    ⟨0x0044, 1, fun _ => .rdPos⟩,
    ⟨0x1000, 256, .hist⟩,
    ⟨0x1400, 256, .ftSym⟩,
    ⟨0x1800, 256, .ftCnt⟩,
    ⟨0x2000, 511, .nodeW⟩,
    ⟨0x2800, 511, .nodeInfo⟩,
    ⟨0x3000, 256, .codeLen⟩,
    ⟨0x4000, 2048, .codeBits⟩,
    ⟨0x8000, cfg.ibufSize, .ibuf⟩,
    ⟨0xC000, cfg.obufSize, .obuf⟩ ]

/-- Whether a byte address lies in a region. -/
def Region.holds (r : Region) (a : Nat) : Bool := decide (r.base ≤ a) && decide (a < r.base + 4 * r.count)

/-- The target of a word-aligned byte address, or none where it is reserved (20_memory.md R84, R85). -/
def locate (cfg : Config) (a : Nat) : Option Target :=
  match (addressMap cfg).find? fun r => r.holds a with
  | some r => some (r.target ((a - r.base) / 4))
  | none => none

/-- What an access of a width in bytes at an address reaches: nothing unless it is exactly 32 bits wide and
aligned (20_memory.md R83). -/
def served (cfg : Config) (size : Nat) (a : BitVec 16) : Option Target :=
  if size = 4 ∧ a.toNat % 4 = 0 then locate cfg a.toNat else none

/-! ### Reads -/

/-- ID (10_state.md R31). -/
def idWord : Word := 0x48554631

/-- CONFIG (10_state.md R33). -/
def configWord (cfg : Config) : Word :=
  BitVec.ofNat 32 (cfg.cntW % 64
    + match cfg.bitOrder with
      | .msbFirst => 0
      | .lsbFirst => 256)

/-- OBUF[k] for the host: defined below OUT_BYTES, a free byte from there on (10_state.md R55, U4). -/
def obufCell (s : State) (k : Nat) : Byte :=
  if k < s.outBytes.toNat then byteCell s s.obuf k k else Config.freeByte (s.draws + k)

/-- The word of a target in an idle block: every narrower value zero-extended (20_memory.md R87), CMD 0 (R86),
a cell without a value a free value of its width (10_state.md R59). -/
def readTarget (s : State) : Target → Word
  | .id => idWord
  | .config => configWord s.cfg
  | .ibufSize => BitVec.ofNat 32 s.cfg.ibufSize
  | .obufSize => BitVec.ofNat 32 s.cfg.obufSize
  | .cmd => 0
  | .status => statusWord s
  | .arg => s.arg
  | .result => s.result
  | .errCmd => s.errCmd
  | .total => s.total
  | .nsyms => s.nsyms.setWidth 32
  | .nnodes => s.nnodes.setWidth 32
  | .root => s.root.setWidth 32
  | .outBytes => s.outBytes.setWidth 32
  | .wrNbits => s.wrNbits.setWidth 32
  | .wrAcc => s.wrAcc.setWidth 32
  | .inLen => s.inLen.setWidth 32
  | .rdPos => s.rdPos.setWidth 32
  | .hist k => countCell s s.hist k
  | .ftSym k => (byteCell s s.ftSym k k).setWidth 32
  | .ftCnt k => countCell s s.ftCnt k
  | .nodeW k => countCell s s.nodeW k
  | .nodeInfo k => wordCell s s.nodeInfo k
  | .codeLen k => (byteCell s s.codeLen k k).setWidth 32
  | .codeBits k => wordCell s s.codeBits k
  | .ibuf k => (byteCell s s.ibuf k k).setWidth 32
  | .obuf k => (obufCell s k).setWidth 32

/-- The addresses whose reads are defined while BUSY = 1 (20_memory.md R88). -/
def Target.readableBusy : Target → Bool
  | .id | .config | .ibufSize | .obufSize | .cmd | .status => true
  | .arg | .result | .errCmd | .total | .nsyms | .nnodes | .root | .outBytes | .wrNbits | .wrAcc | .inLen
  | .rdPos | .hist _ | .ftSym _ | .ftCnt _ | .nodeW _ | .nodeInfo _ | .codeLen _ | .codeBits _ | .ibuf _
  | .obuf _ => false

/-- The data of a read: while BUSY = 1, a free word but for the six addresses of 20_memory.md R88. -/
def readData (s : State) (t : Target) : Word :=
  if s.busy && !t.readableBusy then Config.freeWord s.draws else readTarget s t

/-! ### Writes -/

/-- A write of c to CMD (40_control.md R151). -/
def presentCommand (c : Word) (s : State) : State :=
  if s.busy || s.err then dropWrite s else { s with pending := some c }

/-- A write to ARG, IN_LEN or IBUF is dropped while BUSY = 1 (70_reset_and_hazards.md R352). -/
def operandWrite (stored s : State) : State := if s.busy then dropWrite s else stored

/-- IN_LEN stores min(v, IBUF_SIZE), comparing all 32 bits (10_state.md R48). -/
def storeInLen (v : Word) (s : State) : State :=
  { s with inLen := BitVec.ofNat 13 (min v.toNat s.cfg.ibufSize) }

/-- IBUF[k] stores v[7:0] (20_memory.md R87). -/
def storeIbuf (k : Nat) (v : Word) (s : State) : State :=
  { s with ibuf := Cells.write s.ibuf k (v.setWidth 8) }

/-- The effect of a write of v to a target (20_memory.md R86, R89): read-only targets ignore it. -/
def writeTarget (v : Word) (s : State) : Target → State
  | .cmd => presentCommand v s
  | .status => writeStatus v s
  | .arg => operandWrite { s with arg := v } s
  | .inLen => operandWrite (storeInLen v s) s
  | .ibuf k => operandWrite (storeIbuf k v s) s
  | .id | .config | .ibufSize | .obufSize | .result | .errCmd | .total | .nsyms | .nnodes | .root | .outBytes
  | .wrNbits | .wrAcc | .rdPos | .hist _ | .ftSym _ | .ftCnt _ | .nodeW _ | .nodeInfo _ | .codeLen _
  | .codeBits _ | .obuf _ => s

/-! ### Accesses -/

/-- The reply of an access that is not served: BUS_ERR with data 0 (20_memory.md R82). -/
def busErrReply : Reply := ⟨.busErr, 0⟩

/-- MemRead and MemWrite (20_memory.md R82): the state after the access, with its reply. -/
def access (s : State) : Access → State
  | .read size a =>
    match served s.cfg size a with
    | some t => { s with reply := some ⟨.ok, readData s t⟩ }
    | none => { s with reply := some busErrReply }
  | .write size a v =>
    match served s.cfg size a with
    | some t => { writeTarget v s t with reply := some ⟨.ok, 0⟩ }
    | none => { s with reply := some busErrReply }

/-! ### The reset input -/

/-- Asserting reset: every piece of the block's state to its reset value; a pending command is aborted
(70_reset_and_hazards.md R340, R341). The inputs still to come and the count of free values are not the
block's state (log entry 14). -/
def assertReset (s : State) : State :=
  { State.resetOf s.cfg with inReset := true, turns := s.turns, draws := s.draws }

/-- Releasing reset: the block leaves it quiescent, in the reset state (70_reset_and_hazards.md R340). -/
def releaseReset (s : State) : State := { s with inReset := false }

end Sys2Proof.Machine
end

