-- ==== Sys2Proof/Machine/Bitstream.lean ====
section
/-! DEFINITION. The commands of the bit-stream I/O buffer (41_bitstream.md). -/

namespace Sys2Proof.Machine

/-- WR_RESET (41_bitstream.md R164). -/
def execWrReset (s : State) : Result :=
  .next { s with wrAcc := 0, wrNbits := 0, outBytes := 0, wrClosed := false }

/-- WRITE_BIT (41_bitstream.md R166). -/
def execWriteBit (b : Bool) (s : State) : Result := writeSeq (encode (.writeBit b)) [b] s

/-- WRITE_BITS (41_bitstream.md R165). -/
def execWriteBits (n : Nat) (s : State) : Result := writeSeq (encode (.writeBits n)) (argBits s.arg n) s

/-- FLUSH (41_bitstream.md R167). -/
def execFlush (s : State) : Result :=
  if flushOverflows s then fail .obufFull (encode .flush) s else .next (flushed s)

/-- CLOSE (41_bitstream.md R168). -/
def execClose (s : State) : Result :=
  if s.wrClosed then .next s
  else if flushOverflows s then fail .obufFull (encode .close) s
  else .next { flushed s with wrClosed := true }

/-- RD_RESET (41_bitstream.md R169). -/
def execRdReset (s : State) : Result := .next { s with rdPos := 0 }

/-- READ_BITS (41_bitstream.md R171). -/
def execReadBits (n : Nat) (s : State) : Result :=
  if s.rdPos.toNat + n > avail s then fail .truncatedStream (encode (.readBits n)) s
  else .next { s with
    result := BitVec.ofNat 32 (bitsToNat (inBits s n))
    rdPos := BitVec.ofNat 16 (s.rdPos.toNat + n) }

/-- RD_ALIGN (41_bitstream.md R172). -/
def execRdAlign (s : State) : Result :=
  .next { s with rdPos := BitVec.ofNat 16 ((s.rdPos.toNat + 7) / 8 * 8) }

end Sys2Proof.Machine
end

