-- ==== Sys2Proof/Machine/Codes.lean ====
section
/-! DEFINITION. The code assigner (44_codes.md). -/

namespace Sys2Proof.Machine

/-- An assignment `code[symbol] <- path` of the walk. -/
abbrev Assignment := Byte × List Bool

/-- `walk(j, p)` (44_codes.md R251) over NODE_INFO: the assignments in the order the walk makes them, or none
when the walk goes deeper than the first argument allows. -/
def walk (info : Nat → Word) : Nat → Nat → List Bool → Option (List Assignment)
  | 0, _, _ => none
  | depth + 1, j, p =>
    if infoLeaf (info j) then some [(infoSym (info j), p)]
    else
      match walk info depth (infoLeft (info j)) (p ++ [false]), walk info depth (infoRight (info j)) (p ++ [true]) with
      | some l, some r => some (l ++ r)
      | _, _ => none

/-- The assignments for the current tree (44_codes.md R251, R253): none for an empty tree, "0" for a single
leaf, and the walk from ROOT otherwise. -/
def treeAssignments (s : State) : Option (List Assignment) :=
  if s.nnodes = 0 then some []
  else if infoLeaf (nodeInfoAt s s.root.toNat) then some [(infoSym (nodeInfoAt s s.root.toNat), [false])]
  else walk (nodeInfoAt s) maxNodes s.root.toNat []

/-- The code of symbol c after the assignments, made in order from no code. -/
def codeOf (l : List Assignment) (c : Byte) : List Bool :=
  l.foldl (fun code e => if e.1 = c then e.2 else code) []

/-- Word w of a code: code bit k at bit 31 - (k mod 32) of word k div 32, every other bit 0
(44_codes.md R250, 10_state.md R53). -/
def codeWord (code : List Bool) (w : Nat) : Word :=
  BitVec.ofNat 32 (bitsToNat ((List.range 32).map fun i => code.getD (32 * w + i) false))

/-- ASSIGN_CODES (44_codes.md R250). -/
def execAssignCodes (s : State) : Result :=
  if !s.treeValid then fail .notReady (encode .assignCodes) s
  else
    match treeAssignments s with
    | none => .fault .endlessTreeWalk
    | some l => .next { s with
        codeLen := Cells.fill nsym fun c => BitVec.ofNat 8 (codeOf l (BitVec.ofNat 8 c)).length
        codeBits := Cells.fill (8 * nsym) fun k => codeWord (codeOf l (BitVec.ofNat 8 (k / 8))) (k % 8)
        codesValid := true }

end Sys2Proof.Machine
end

