-- ==== Sys2Proof/Machine/Control.lean ====
section
/-! DEFINITION. The command of 40_control.md: NOP. -/

namespace Sys2Proof.Machine

/-- NOP (40_control.md R153): no effect. -/
def execNop (s : State) : Result := .next s

end Sys2Proof.Machine
end

