-- ==== Sys2Proof/Machine/Frequency.lean ====
section
/-! DEFINITION. The commands of the frequency table scanner (42_frequency.md). -/

namespace Sys2Proof.Machine

/-- CLEAR_HIST (42_frequency.md R200). -/
def execClearHist (s : State) : Result :=
  .next (histChanged { s with hist := Cells.fill nsym fun _ => 0, total := 0, histValid := true })

/-- `HIST[c] <- HIST[c] + 1`. -/
def countSym (c : Byte) (s : State) : State :=
  { s with hist := Cells.write s.hist c.toNat (storeCount s.cfg (histCount s c.toNat + 1)) }

/-- SCAN_SYM (42_frequency.md R201). -/
def execScanSym (c : Byte) (s : State) : Result :=
  if !s.histValid then fail .notReady (encode (.scanSym c)) s
  else if s.total.toNat + 1 > s.cfg.cmax then fail .countOverflow (encode (.scanSym c)) s
  else .next (histChanged { countSym c s with total := storeCount s.cfg (s.total.toNat + 1) })

/-- IBUF[0], ..., IBUF[IN_LEN-1], each read once (42_frequency.md R202; U2). -/
def inputBytes (s : State) : List Byte := (List.range s.inLen.toNat).map fun k => byteCell s s.ibuf k k

/-- SCAN_BUF (42_frequency.md R202). -/
def execScanBuf (s : State) : Result :=
  if !s.histValid then fail .notReady (encode .scanBuf) s
  else if s.total.toNat + s.inLen.toNat > s.cfg.cmax then fail .countOverflow (encode .scanBuf) s
  else .next (histChanged { (inputBytes s).foldl (fun t c => countSym c t) s with
    total := storeCount s.cfg (s.total.toNat + s.inLen.toNat) })

/-- `TOTAL - HIST[c] + v`, on naturals (42_frequency.md R203, 00_scope.md R19; log entry 11). -/
def binTotal (c : Byte) (s : State) : Nat := s.total.toNat - histCount s c.toNat + s.arg.toNat

/-- SET_BIN (42_frequency.md R203). -/
def execSetBin (c : Byte) (s : State) : Result :=
  if !s.histValid then fail .notReady (encode (.setBin c)) s
  else if s.arg.toNat > s.cfg.cmax ∨ binTotal c s > s.cfg.cmax then
    fail .countOverflow (encode (.setBin c)) s
  else .next (histChanged { s with
    total := storeCount s.cfg (binTotal c s)
    hist := Cells.write s.hist c.toNat (storeCount s.cfg s.arg.toNat) })

/-! ### MAKE_TABLE -/

/-- Ascending by (count, then symbol), on pairs (count, symbol) (42_frequency.md R204). -/
def entryLe (a b : Nat × Nat) : Bool := decide (a.1 < b.1) || (decide (a.1 = b.1) && decide (a.2 ≤ b.2))

/-- An entry put at its place in a sorted list. -/
def insertEntry (e : Nat × Nat) : List (Nat × Nat) → List (Nat × Nat)
  | [] => [e]
  | f :: l => if entryLe e f then e :: f :: l else f :: insertEntry e l

/-- The entries in ascending order. -/
def sortEntries : List (Nat × Nat) → List (Nat × Nat)
  | [] => []
  | e :: l => insertEntry e (sortEntries l)

/-- `[ (HIST[s], s) for s in 0..255 if HIST[s] >= 1 ]`. -/
def histEntries (s : State) : List (Nat × Nat) :=
  ((List.range nsym).map fun k => (histCount s k, k)).filter fun e => decide (1 ≤ e.1)

/-- The sorted frequency table as pairs (count, symbol). -/
def freqTable (s : State) : List (Nat × Nat) := sortEntries (histEntries s)

/-- MAKE_TABLE (42_frequency.md R204). -/
def execMakeTable (s : State) : Result :=
  if !s.histValid then fail .notReady (encode .makeTable) s
  else
    let e := freqTable s
    .next { s with
      ftCnt := Cells.fill nsym fun i => storeCount s.cfg (e.getD i (0, 0)).1
      ftSym := Cells.fill nsym fun i => BitVec.ofNat 8 (e.getD i (0, 0)).2
      nsyms := BitVec.ofNat 9 e.length
      result := BitVec.ofNat 32 e.length
      tableValid := true
      treeValid := false
      codesValid := false }

end Sys2Proof.Machine
end

