-- ==== Sys2Proof/Machine/Payload.lean ====
section
/-! DEFINITION. The payload primitives (45_payload.md). -/

namespace Sys2Proof.Machine

/-- WRITE_CODE (45_payload.md R270). The fourth check, OBUF_FULL, is WriteSeq's. -/
def execWriteCode (c : Byte) (s : State) : Result :=
  if s.wrClosed then fail .writeClosed (encode (.writeCode c)) s
  else if !s.codesValid then fail .notReady (encode (.writeCode c)) s
  else if codeLength s c = 0 then fail .unknownSymbol (encode (.writeCode c)) s
  else writeSeq (encode (.writeCode c)) (codeSeq s c) s

/-- The descent of DECODE_SYM (45_payload.md R271) from node j at bit position p, with the bits left before
the end of the stream: the leaf reached and the position after it, or none at the end of the stream. -/
def descend (s : State) : Nat → Nat → Nat → Option (Nat × Nat)
  | 0, j, p => if infoLeaf (nodeInfoAt s j) then some (j, p) else none
  | left + 1, j, p =>
    if infoLeaf (nodeInfoAt s j) then some (j, p)
    else descend s left (infoChild (nodeInfoAt s j) (inBit s p (p - s.rdPos.toNat))) (p + 1)

/-- The end of a DECODE_SYM that reached leaf j and read up to position p. -/
def decoded (s : State) (j p : Nat) : State :=
  { s with rdPos := BitVec.ofNat 16 p, result := (infoSym (nodeInfoAt s j)).setWidth 32 }

/-- DECODE_SYM (45_payload.md R271). -/
def execDecodeSym (s : State) : Result :=
  if !s.treeValid || s.nnodes == 0 then fail .notReady (encode .decodeSym) s
  else if infoLeaf (nodeInfoAt s s.root.toNat) then
    if s.rdPos.toNat + 1 > avail s then fail .truncatedStream (encode .decodeSym) s
    else if inBit s s.rdPos.toNat 0 then fail .badCode (encode .decodeSym) s
    else .next (decoded s s.root.toNat (s.rdPos.toNat + 1))
  else
    match descend s (avail s - s.rdPos.toNat) s.root.toNat s.rdPos.toNat with
    | none => fail .truncatedStream (encode .decodeSym) s
    | some (j, p) => .next (decoded s j p)

end Sys2Proof.Machine
end

