-- ==== Sys2Proof/Machine/Tree.lean ====
section
/-! DEFINITION. The tree builder (43_tree.md). -/

namespace Sys2Proof.Machine

/-- A node as the merge makes it (43_tree.md R231): weight, LEAF, SYM, L, R. -/
structure TreeNode where
  weight : Nat
  leaf : Bool
  sym : Byte
  left : Nat
  right : Nat
  deriving DecidableEq, Repr

/-- A candidate: the key (W[q], q) of node q (43_tree.md R232). -/
abbrev Key := Nat × Nat

/-- The tie-break comparator: smaller weight first, then smaller index (43_tree.md R232). -/
def keyLt (a b : Key) : Bool := decide (a.1 < b.1) || (decide (a.1 = b.1) && decide (a.2 < b.2))

/-- The smallest of a key and a list of keys. -/
def minKey : Key → List Key → Key
  | k, [] => k
  | k, q :: qs => if keyLt q k then minKey q qs else minKey k qs

/-- `argmin` over Q, and Q without it (43_tree.md R231). -/
def takeMin : List Key → Option (Key × List Key)
  | [] => none
  | k :: qs => some (minKey k qs, (k :: qs).erase (minKey k qs))

/-- The merge loop (43_tree.md R231) on the nodes made so far and the candidates Q: each pass removes two
nodes (first left, second right) and adds node m, the number of nodes so far. The first argument bounds the
passes; a loop on n candidates makes n - 1. -/
def mergeLoop : Nat → List TreeNode → List Key → List TreeNode
  | 0, nodes, _ => nodes
  | fuel + 1, nodes, q =>
    match takeMin q with
    | none => nodes
    | some (a, q1) =>
      match takeMin q1 with
      | none => nodes
      | some (b, q2) =>
        mergeLoop fuel (nodes ++ [⟨a.1 + b.1, false, 0, a.2, b.2⟩]) (q2 ++ [(a.1 + b.1, nodes.length)])

/-- Leaf i, from frequency-table entry i (43_tree.md R231). -/
def leafNode (s : State) (i : Nat) : TreeNode :=
  ⟨(countCell s s.ftCnt i).toNat, true, byteCell s s.ftSym i i, nodeNone, nodeNone⟩

/-- The nodes of the tree over the current table (43_tree.md R231). -/
def builtNodes (s : State) : List TreeNode :=
  let leaves := (List.range s.nsyms.toNat).map (leafNode s)
  mergeLoop s.nsyms.toNat leaves (leaves.zipIdx.map fun e => (e.1.weight, e.2))

/-- BUILD_TREE (43_tree.md R230, R231). -/
def execBuildTree (s : State) : Result :=
  if !s.tableValid then fail .notReady (encode .buildTree) s
  else
    let nodes := builtNodes s
    .next { s with
      nodeW := Cells.fill maxNodes fun j =>
        match nodes[j]? with
        | some x => storeCount s.cfg x.weight
        | none => 0
      nodeInfo := Cells.fill maxNodes fun j =>
        match nodes[j]? with
        | some x => packInfo x.leaf x.sym x.right x.left
        | none => 0
      nnodes := BitVec.ofNat 10 nodes.length
      root := if s.nsyms = 0 then BitVec.ofNat 9 nodeNone else BitVec.ofNat 9 (nodes.length - 1)
      treeValid := true
      codesValid := false }

end Sys2Proof.Machine
end

