-- ==== Sys2Proof/Machine/Dispatch.lean ====
section
/-! DEFINITION. One arm per command (40_control.md R150, step 2). -/

namespace Sys2Proof.Machine

/-- The meaning of a command on the state whose PENDING the engine has just consumed. -/
def exec (i : Instr) (s : State) : Host.Outcome State Fault Refusal :=
  match i with
  | .nop => Sys2Proof.Machine.execNop s
  | .wrReset => Sys2Proof.Machine.execWrReset s
  | .writeBit b => Sys2Proof.Machine.execWriteBit b s
  | .writeBits n => Sys2Proof.Machine.execWriteBits n s
  | .flush => Sys2Proof.Machine.execFlush s
  | .close => Sys2Proof.Machine.execClose s
  | .rdReset => Sys2Proof.Machine.execRdReset s
  | .readBits n => Sys2Proof.Machine.execReadBits n s
  | .rdAlign => Sys2Proof.Machine.execRdAlign s
  | .clearHist => Sys2Proof.Machine.execClearHist s
  | .scanSym c => Sys2Proof.Machine.execScanSym c s
  | .scanBuf => Sys2Proof.Machine.execScanBuf s
  | .setBin c => Sys2Proof.Machine.execSetBin c s
  | .makeTable => Sys2Proof.Machine.execMakeTable s
  | .buildTree => Sys2Proof.Machine.execBuildTree s
  | .assignCodes => Sys2Proof.Machine.execAssignCodes s
  | .writeCode c => Sys2Proof.Machine.execWriteCode c s
  | .decodeSym => Sys2Proof.Machine.execDecodeSym s

end Sys2Proof.Machine
end

