-- ==== Sys2Proof/Machine/Engine.lean ====
section
/-! DEFINITION. One turn of each agent: the engine, the host, the reset input. -/

namespace Sys2Proof.Machine

/-- The engine runs a command word (40_control.md R150): a word no row matches raises ILLEGAL_CMD. -/
def runCommand (c : Word) (s : State) : Result :=
  match decode c with
  | .ok i => exec i s
  | .error _ => fail .illegalCmd c s

/-- The engine's turn (40_control.md R150): with a command pending, one atomic step; without one, or in
reset, it has no step and the block keeps its state (60_exceptions.md R314, 70_reset_and_hazards.md R340). -/
def engineTurn (s : State) : Result :=
  if s.inReset then .next s
  else
    match s.pending with
    | none => .next s
    | some c => runCommand c (beginCommand s)

/-- The host's turn: an access made while reset is asserted has no defined outcome
(70_reset_and_hazards.md R342). -/
def hostTurn (a : Access) (s : State) : Result :=
  if s.inReset then .refused .accessDuringReset else .next (access (freshDraws s) a)

/-- The move a turn stands for. -/
def takeTurn (t : Turn) (s : State) : Result :=
  match t with
  | .host a => hostTurn a s
  | .engine => engineTurn s
  | .assertReset => .next (assertReset s)
  | .releaseReset => .next (releaseReset s)

/-- The state whose next turn is the engine's, with the table's word as its pending command. -/
def placeCommand (nbits w : Nat) (s : State) : State :=
  { s with pending := some (tableWord nbits w), inReset := false, turns := .engine :: s.turns }

end Sys2Proof.Machine
end

