-- ==== Sys2Proof/Machine/Step.lean ====
section
/-! DEFINITION. One step of the machine: the first of the turns that are left, and the engine's when none is. -/

namespace Sys2Proof.Machine

/-- One step in the total order of 20_memory.md R95 (log entry 2). When no turn is left the engine moves:
the weak fairness of 40_control.md R150. -/
def step (s : State) : Host.Outcome State Fault Refusal :=
  match s.turns with
  | [] => engineTurn s
  | t :: rest => takeTurn t { s with turns := rest }

/-- `s` with a command word where the engine takes its next command: in PENDING, as an accepted CMD write
leaves it (40_control.md R151), and the engine's turn next (log entry 3). -/
def State.withFetchWord (s : State) (nbits w : Nat) : State := placeCommand nbits w s

end Sys2Proof.Machine
end

