-- ==== Sys2Proof/Machine/HostProgram.lean ====
section
/-! DEFINITION. The host-program notation of 30_encoding.md R128 and R129, each form as the turns it stands
for. A host program's control flow is its own; a WAIT is written with the polls its schedule makes. -/

namespace Sys2Proof.Machine.HostProgram

/-- `W <addr>, <v>` (R128). -/
def write (a : BitVec 16) (v : Word) : Turn := .host (.write 4 a v)

/-- `R <addr>` (R128). -/
def read (a : BitVec 16) : Turn := .host (.read 4 a)

/-- `<MNEMONIC> <operand>`: the command's word written to CMD (R128). -/
def command (i : Instr) : Turn := write 0x0010 (encode i)

/-- `WAIT` (R129): `early` polls of STATUS before the engine's step, and the poll that sees BUSY = 0. -/
def wait (early : Nat) : List Turn := List.replicate early (read 0x0014) ++ [.engine, read 0x0014]

/-- A command followed by `WAIT`. -/
def issue (i : Instr) : List Turn := command i :: wait 0

/-- `LDARG <v>` (R129). -/
def ldarg (v : Word) : Turn := write 0x0018 v

/-- `WRBITS <n>, <v>` (R129). -/
def wrbits (n : Nat) (v : Word) : List Turn := ldarg v :: issue (.writeBits n)

/-- `SETBIN <s>, <c>` (R129). -/
def setbin (s : Byte) (c : Word) : List Turn := ldarg c :: issue (.setBin s)

/-- `RDBITS <n> -> <x>` (R129): x is the reply of the last read. -/
def rdbits (n : Nat) : List Turn := issue (.readBits n) ++ [read 0x001C]

/-- `DECODE -> <x>` (R129): x is the reply of the last read. -/
def decodeOne : List Turn := issue .decodeSym ++ [read 0x001C]

/-- `CLRERR` (R129). -/
def clrerr : Turn := write 0x0014 0x00000006

/-- `LOADIN <bytes>` (R129). -/
def loadin (bytes : List Byte) : List Turn :=
  (bytes.zipIdx.map fun e => write (BitVec.ofNat 16 (0x8000 + 4 * e.2)) (e.1.setWidth 32))
    ++ [write 0x0040 (BitVec.ofNat 32 bytes.length)]

/-- `CHECK` (R129) passes on a STATUS word with ERR and DROP clear. -/
def checkPasses (status : Word) : Bool := !status.getLsbD 1 && !status.getLsbD 2

/-- `compute_frequencies(S)` with SCAN_SYM for each symbol (42_frequency.md R206). -/
def computeFrequencies (symbols : List Byte) : List Turn :=
  issue .clearHist ++ symbols.flatMap (fun c => issue (.scanSym c)) ++ issue .makeTable

/-- The host's encode loop, then CLOSE (45_payload.md R272). -/
def encodePayload (symbols : List Byte) : List Turn :=
  symbols.flatMap (fun c => issue (.writeCode c)) ++ issue .close

/-- The host's decode loop over a known count (45_payload.md R272). -/
def decodePayload (count : Nat) : List Turn := issue .rdReset ++ (List.replicate count decodeOne).flatten

end Sys2Proof.Machine.HostProgram
end

