-- ==== Sys2Proof/Safety.lean ====
section
/-! DEFINITION. The terms claims use: quiescent and clean states, the output stream as bits, paths in the tree,
and the invariants the rules give. -/

namespace Sys2Proof.Machine

/-! ### Runs -/

/-- The block is quiescent (40_control.md R155). -/
def State.quiescent (s : State) : Bool := !s.busy

/-- The premise of every claim about a host program that is not about an error (40_control.md R155). -/
def State.clean (s : State) : Bool := !s.err && !s.drop

/-- The state in which the engine moves: no turn is left, or the engine's is first; in the second case the
turn is used up. -/
def engineNext (s : State) : Option State :=
  match s.turns with
  | [] => some s
  | .engine :: rest => some { s with turns := rest }
  | _ => none

/-! ### The streams -/

/-- Bit k of the output stream (41_bitstream.md R160): in OBUF below OUT_BYTES, then in WR_ACC. -/
def outBit (s : State) (k : Nat) : Bool :=
  if k / 8 < s.outBytes.toNat then
    (byteCell s s.obuf (k / 8) (k / 8)).getLsbD (bitPos s.cfg.bitOrder (k % 8))
  else s.wrAcc.getLsbD (bitPos s.cfg.bitOrder (k % 8))

/-- The number of bits written, 8 * OUT_BYTES + WR_NBITS (41_bitstream.md R174). -/
def outLength (s : State) : Nat := 8 * s.outBytes.toNat + s.wrNbits.toNat

/-- The output stream since the last WR_RESET or reset. -/
def outStream (s : State) : List Bool := (List.range (outLength s)).map (outBit s)

/-- The host's copy of OBUF[0..OUT_BYTES-1] to IBUF, with IN_LEN and a new read pass (41_bitstream.md R173). -/
def copyBack (s : State) : State :=
  { s with
    ibuf := (List.range s.outBytes.toNat).foldl (fun m k => Cells.write m k (byteCell s s.obuf k k)) s.ibuf
    inLen := BitVec.ofNat 13 (min s.outBytes.toNat s.cfg.ibufSize)
    rdPos := 0 }

/-- Every byte of the input stream was written by the host (10_state.md R54). -/
def InputWritten (s : State) : Prop := ∀ k, k < s.inLen.toNat → Cells.read s.ibuf k ≠ none

/-! ### The table and the tree, as the arrays hold them -/

/-- FT_SYM[i]. -/
def ftSymAt (s : State) (i : Nat) : Byte := byteCell s s.ftSym i i

/-- FT_CNT[i]. -/
def ftCntAt (s : State) (i : Nat) : Nat := (countCell s s.ftCnt i).toNat

/-- NODE_W[j]. -/
def nodeWeight (s : State) (j : Nat) : Nat := (countCell s s.nodeW j).toNat

/-- NODE_INFO[j].LEFT. -/
def leftOf (s : State) (j : Nat) : Nat := infoLeft (nodeInfoAt s j)

/-- NODE_INFO[j].RIGHT. -/
def rightOf (s : State) (j : Nat) : Nat := infoRight (nodeInfoAt s j)

/-- Node j' among the internal nodes n..j-1 has q as a child. -/
def usedBefore (s : State) (j q : Nat) : Prop :=
  ∃ j', j' < j ∧ s.nsyms.toNat ≤ j' ∧ (leftOf s j' = q ∨ rightOf s j' = q)

/-- The comparator of 43_tree.md R232 on the stored nodes: the key (NODE_W[a], a) is below (NODE_W[b], b). -/
def keyBelow (s : State) (a b : Nat) : Prop :=
  nodeWeight s a < nodeWeight s b ∨ (nodeWeight s a = nodeWeight s b ∧ a < b)

/-- The node a path leads to from node j, through internal nodes only: left for false, right for true
(44_codes.md R251, R252). -/
def follow (info : Nat → Word) : Nat → List Bool → Option Nat
  | j, [] => some j
  | j, b :: p => if infoLeaf (info j) then none else follow info (infoChild (info j) b) p

/-! ### Invariants -/

/-- Every array is in canonical form (Machine/Cells.lean). -/
def MemoryInv (s : State) : Prop := s.memWf = true

/-- The error latch (10_state.md R36, R40; 60_exceptions.md R304; R37's last sentence). -/
def LatchInv (s : State) : Prop :=
  (s.err = false → s.errcode = .none ∧ s.errCmd = 0)
    ∧ (s.err = true → s.errcode ≠ .none ∧ s.pending = none)

/-- The writer (10_state.md R45, R47, R55; 41_bitstream.md R168). -/
def WriterInv (s : State) : Prop :=
  s.cfg.wf = true
    ∧ s.outBytes.toNat ≤ s.cfg.obufSize
    ∧ (∀ j, j < 8 → s.wrNbits.toNat ≤ j → s.wrAcc.getLsbD (bitPos s.cfg.bitOrder j) = false)
    ∧ (s.wrClosed = true → s.wrNbits = 0)
    ∧ (∀ k, k < s.outBytes.toNat → Cells.read s.obuf k ≠ none)

/-- The reader (10_state.md R48, R49; 00_scope.md R19). -/
def ReaderInv (s : State) : Prop :=
  s.cfg.wf = true ∧ s.inLen.toNat ≤ s.cfg.ibufSize ∧ s.rdPos.toNat ≤ 8 * s.cfg.ibufSize

/-- The places of CNT_W bits hold values of CNT_W bits (00_scope.md R9; 10_state.md R41, R50-R52). -/
def CountWidthInv (s : State) : Prop :=
  s.total.toNat < 2 ^ s.cfg.cntW
    ∧ ∀ (k : Nat) (v : Word),
      Cells.read s.hist k = some v ∨ Cells.read s.ftCnt k = some v ∨ Cells.read s.nodeW k = some v →
      v.toNat < 2 ^ s.cfg.cntW

/-- The histogram (10_state.md R41, R50): every bin holds a value and TOTAL is their sum. -/
def HistOk (s : State) : Prop :=
  (∀ k, k < nsym → Cells.read s.hist k ≠ none)
    ∧ ((List.range nsym).map (histCount s)).sum = s.total.toNat
    ∧ s.total.toNat ≤ s.cfg.cmax

/-- The frequency table (10_state.md R51, R57): exactly the pairs (s, HIST[s]) with HIST[s] >= 1, ascending by
(count, symbol), with the counts' sum TOTAL, and (0, 0) from NSYMS on. -/
def TableOk (s : State) : Prop :=
  s.nsyms.toNat ≤ nsym
    ∧ (∀ i, i < nsym → Cells.read s.ftSym i ≠ none ∧ Cells.read s.ftCnt i ≠ none)
    ∧ (∀ i, i < s.nsyms.toNat → 1 ≤ ftCntAt s i ∧ ftCntAt s i = histCount s (ftSymAt s i).toNat)
    ∧ (∀ c : Byte, 1 ≤ histCount s c.toNat → ∃ i, i < s.nsyms.toNat ∧ ftSymAt s i = c)
    ∧ (∀ j, j < s.nsyms.toNat → ∀ i, i < j →
        ftCntAt s i < ftCntAt s j ∨ (ftCntAt s i = ftCntAt s j ∧ (ftSymAt s i).toNat < (ftSymAt s j).toNat))
    ∧ ((List.range s.nsyms.toNat).map (ftCntAt s)).sum = s.total.toNat
    ∧ (∀ i, i < nsym → s.nsyms.toNat ≤ i → ftSymAt s i = 0 ∧ ftCntAt s i = 0)

/-- The validity chain with what each flag stands for up to the table (10_state.md R57, R41). -/
def TableInv (s : State) : Prop :=
  s.cfg.wf = true
    ∧ (s.tableValid = true → s.histValid = true)
    ∧ (s.treeValid = true → s.tableValid = true)
    ∧ (s.codesValid = true → s.treeValid = true)
    ∧ (s.histValid = true → HistOk s)
    ∧ (s.tableValid = true → TableOk s)

/-- The tree over the current table (10_state.md R52; 43_tree.md R231, R233): leaves in table order, internal
nodes above their children, each node but the root the child of exactly one, weights the children's sums, and
0 from NNODES on. -/
def TreeOk (s : State) : Prop :=
  s.nnodes.toNat = 2 * s.nsyms.toNat - 1
    ∧ s.root.toNat = (if s.nsyms.toNat = 0 then nodeNone else 2 * s.nsyms.toNat - 2)
    ∧ (∀ j, j < maxNodes → Cells.read s.nodeW j ≠ none ∧ Cells.read s.nodeInfo j ≠ none)
    ∧ (∀ i, i < s.nsyms.toNat →
        nodeInfoAt s i = packInfo true (ftSymAt s i) nodeNone nodeNone ∧ nodeWeight s i = ftCntAt s i)
    ∧ (∀ j, j < 2 * s.nsyms.toNat - 1 → s.nsyms.toNat ≤ j →
        nodeInfoAt s j = packInfo false 0 (rightOf s j) (leftOf s j)
          ∧ leftOf s j < j ∧ rightOf s j < j ∧ leftOf s j ≠ rightOf s j
          ∧ nodeWeight s j = nodeWeight s (leftOf s j) + nodeWeight s (rightOf s j))
    ∧ (∀ q, q < 2 * s.nsyms.toNat - 2 →
        ∃ j, j < 2 * s.nsyms.toNat - 1 ∧ s.nsyms.toNat ≤ j ∧ (leftOf s j = q ∨ rightOf s j = q)
          ∧ ∀ j', j' < 2 * s.nsyms.toNat - 1 → s.nsyms.toNat ≤ j' → (leftOf s j' = q ∨ rightOf s j' = q) → j' = j)
    ∧ (1 ≤ s.nsyms.toNat → nodeWeight s s.root.toNat = s.total.toNat)
    ∧ (∀ j, j < maxNodes → s.nnodes.toNat ≤ j → nodeInfoAt s j = 0 ∧ nodeWeight s j = 0)

/-- The greedy choice of 43_tree.md R231 and R232: at each merge the left child has the smallest key of the
nodes not yet removed, and the right child the next smallest. -/
def GreedyMerges (s : State) : Prop :=
  ∀ j, j < 2 * s.nsyms.toNat - 1 → s.nsyms.toNat ≤ j →
    ¬ usedBefore s j (leftOf s j) ∧ ¬ usedBefore s j (rightOf s j)
      ∧ keyBelow s (leftOf s j) (rightOf s j)
      ∧ ∀ q, q < j → ¬ usedBefore s j q → q ≠ leftOf s j → q ≠ rightOf s j → keyBelow s (rightOf s j) q

/-- The validity chain with the tree (43_tree.md R233). -/
def TreeInv (s : State) : Prop := TableInv s ∧ (s.treeValid = true → TreeOk s)

/-- The codes of the current tree (10_state.md R53; 44_codes.md R251, R253, R254): the path from ROOT to the
symbol's leaf, "0" for a single leaf, no code for a symbol outside the table, and 0 in every unused bit. -/
def CodesOk (s : State) : Prop :=
  (∀ k, k < nsym → Cells.read s.codeLen k ≠ none)
    ∧ (∀ k, k < 8 * nsym → Cells.read s.codeBits k ≠ none)
    ∧ (∀ i, i < s.nsyms.toNat → s.nsyms.toNat = 1 → codeSeq s (ftSymAt s i) = [false])
    ∧ (∀ i, i < s.nsyms.toNat → 2 ≤ s.nsyms.toNat →
        follow (nodeInfoAt s) s.root.toNat (codeSeq s (ftSymAt s i)) = some i)
    ∧ (∀ c : Byte, (∀ i, i < s.nsyms.toNat → ftSymAt s i ≠ c) → codeLength s c = 0)
    ∧ (∀ c : Byte, ∀ k, k < 256 → codeLength s c ≤ k → codeBit s c k = false)

/-- The whole validity chain (10_state.md R57; 43_tree.md R233; 44_codes.md R254). -/
def CodesInv (s : State) : Prop := TreeInv s ∧ (s.codesValid = true → CodesOk s)

/-! ### Sequences of commands on one state -/

/-- Commands performed one after another, each to its end. -/
def execAll : List Instr → State → Result
  | [], s => .next s
  | i :: rest, s =>
    match exec i s with
    | .next t => execAll rest t
    | .fault f => .fault f
    | .refused r => .refused r

/-- RESULT after each of n DECODE_SYM commands (45_payload.md R272), while they end without an error. -/
def decodeAll : Nat → State → Option (List Word)
  | 0, _ => some []
  | n + 1, s =>
    match exec .decodeSym s with
    | .next t => if t.err then none else (decodeAll n t).map fun l => t.result :: l
    | _ => none

end Sys2Proof.Machine
end

