-- ==== Sys2Proof/Certificates/Slice0/Obligations.lean ====
section
/-! DEFINITION. The statements about HUFCORE, taken from the numbered rules of spec/. -/

open Sys2Proof Sys2Proof.Machine

/-! ### Encoding (30_encoding.md) -/

/-- 30_encoding.md R122-R125: every well-formed command, with every operand value its encoding admits, is read
back from its word. -/
def Obligations.DecodeReadsBackEncode : Prop :=
  ∀ i : Instr, i.wf = true → decode (encode i) = .ok i

/-- 30_encoding.md R122-R125, strict decode: a command word has one meaning, and it is the word of that meaning,
so ERR_CMD (log entry 12) holds the word the host wrote. -/
def Obligations.DecodedWordIsTheEncoding : Prop :=
  ∀ (c : Word) (i : Instr), decode c = .ok i → i.wf = true ∧ encode i = c

/-- 30_encoding.md R125: a word is the command of a row exactly when its masked bits are the row's match, at
most one row matches, and a word no row matches raises ILLEGAL_CMD when it is executed. -/
def Obligations.DecodeByMaskAndMatch : Prop :=
  (∀ (c : Word) (r : OpRow), r ∈ opTable →
      (decode c = .ok (r.instr c) ↔ c &&& r.format.mask = r.bits))
    ∧ (∀ (c : Word) (r r' : OpRow), r ∈ opTable → r' ∈ opTable →
        c &&& r.format.mask = r.bits → c &&& r'.format.mask = r'.bits → r.bits = r'.bits)
    ∧ (opTable.map fun r => fieldOp r.bits).Nodup ∧ (∀ r ∈ opTable, r.format.mask &&& 0xFF = 0xFF)
    ∧ (∀ (c : Word) (s : State), (∀ r ∈ opTable, c &&& r.format.mask ≠ r.bits) →
        runCommand c s = .next (raise .illegalCmd c s))

/-- 30_encoding.md R126: a word no row matches raises ILLEGAL_CMD, and so do the three kinds of illegal words, each
by itself: the 238 unassigned opcodes, an assigned opcode with a non-zero unused field, and RSV non-zero. -/
def Obligations.IllegalWordsRaiseIllegalCmd : Prop :=
  (∀ (c : Word) (s : State), (∀ r ∈ opTable, r.hits c = false) →
      runCommand c s = .next (raise .illegalCmd c s))
    ∧ (∀ k, k < 256 → ((∀ r ∈ opTable, (fieldOp r.bits).toNat ≠ k) ↔
      (0x01 ≤ k ∧ k ≤ 0x0F) ∨ (0x15 ≤ k ∧ k ≤ 0x17) ∨ (0x1B ≤ k ∧ k ≤ 0x1F) ∨ (0x25 ≤ k ∧ k ≤ 0x2F)
        ∨ (0x31 ≤ k ∧ k ≤ 0x3F) ∨ (0x41 ≤ k ∧ k ≤ 0x4F) ∨ (0x52 ≤ k ∧ k ≤ 0xFF)))
    ∧ (∀ (c : Word) (s : State), (∀ r ∈ opTable, fieldOp r.bits ≠ fieldOp c) →
        runCommand c s = .next (raise .illegalCmd c s))
    ∧ (∀ (c : Word) (s : State) (r : OpRow), r ∈ opTable → fieldOp c = fieldOp r.bits →
        c &&& r.format.mask ≠ r.bits → runCommand c s = .next (raise .illegalCmd c s))
    ∧ (∀ (c : Word) (s : State), fieldRsv c ≠ 0 → runCommand c s = .next (raise .illegalCmd c s))

/-- Words of 95_test_vectors.md 2.1, one at least of every family, are the commands they stand for, and its
illegal words are none. -/
def Obligations.SpecWordsDecode : Prop :=
  decode 0x00000000 = .ok .nop ∧ decode 0x00000111 = .ok (.writeBit true)
    ∧ decode 0x00040012 = .ok (.writeBits 5) ∧ decode 0x001F0019 = .ok (.readBits 32)
    ∧ decode 0x00004121 = .ok (.scanSym 0x41) ∧ decode 0x00004123 = .ok (.setBin 0x41)
    ∧ decode 0x00000030 = .ok .buildTree ∧ decode 0x00000040 = .ok .assignCodes
    ∧ decode 0x00004150 = .ok (.writeCode 0x41) ∧ decode 0x00000051 = .ok .decodeSym
    ∧ (∀ c ∈ ([0x00000001, 0x000000FF, 0x00000100, 0x00000211, 0x00000119, 0x00200012, 0x80000000, 0x00010021]
        : List Word), ∀ i, decode c ≠ .ok i)

/-! ### The turns (40_control.md) -/

/-- 40_control.md R150: when the engine moves, the pending word is decoded and its command performed; a word that is no
command raises ILLEGAL_CMD. The model's own: the command runs on the state whose PENDING is already empty (log entry
13), with a fresh block of free values (log entry 4); a turn with nothing pending leaves the state as it is (log entry
18); who moves is `turns` (log entry 2). -/
def Obligations.EngineStepRunsThePendingCommand : Prop :=
  ∀ s u : State, engineNext s = some u → u.inReset = false →
    (∀ c i, u.pending = some c → decode c = .ok i →
        step s = exec i { u with pending := none, draws := u.draws + drawBlock })
      ∧ (∀ c w, u.pending = some c → decode c = .error w →
          step s = .next (raise .illegalCmd c { u with pending := none, draws := u.draws + drawBlock }))
      ∧ (u.pending = none → step s = .next u)

/-- 40_control.md R150, item 3: whether the command completes or raises an error, PENDING is none after the
engine's step, so BUSY reads 0. -/
def Obligations.EngineStepEndsTheCommand : Prop :=
  ∀ s u t : State, engineNext s = some u → u.inReset = false → step s = .next t →
    t.pending = none ∧ (statusWord t).getLsbD 0 = false

/-- 20_memory.md R82 and 70_reset_and_hazards.md R342: the host's turn is its access, with the reply, and is
refused while reset is asserted (log entry 14). -/
def Obligations.HostTurnMakesTheAccess : Prop :=
  ∀ (s : State) (a : Access) (rest : List Turn), s.turns = .host a :: rest →
    (s.inReset = false → step s = .next (access { s with turns := rest, draws := s.draws + drawBlock } a))
      ∧ (s.inReset = true → step s = .refused .accessDuringReset)

/-! ### Errors (60_exceptions.md) -/

/-- 60_exceptions.md R302: raising an error sets ERR, ERRCODE and ERR_CMD and empties PENDING (BUSY reads 0), and a
command that raises an error changes nothing else; a command never raises NONE. -/
def Obligations.FailedCommandChangesOnlyTheLatch : Prop :=
  (∀ (e : ErrCode) (c : Word) (s : State),
      (raise e c s).err = true ∧ (raise e c s).errcode = e ∧ (raise e c s).errCmd = c
        ∧ (raise e c s).pending = none ∧ (raise e c s).busy = false
        ∧ { raise e c s with err := s.err, errcode := s.errcode, errCmd := s.errCmd, pending := s.pending } = s)
    ∧ (∀ (c : Word) (s t : State), s.err = false → runCommand c s = .next t → t.err = true →
        ∃ e, e ≠ .none ∧ t = raise e c s)

/-- 00_scope.md R17: a command completes or raises an error; one that completes leaves the error latch, DROP and
PENDING alone. -/
def Obligations.CommandCompletesOrRaises : Prop :=
  ∀ (i : Instr) (s t : State), exec i s = .next t →
    (∃ e, e ≠ .none ∧ t = raise e (encode i) s)
      ∨ (t.err = s.err ∧ t.errcode = s.errcode ∧ t.errCmd = s.errCmd ∧ t.drop = s.drop ∧ t.pending = s.pending)

/-- 60_exceptions.md R300: NOT_READY for each command whose validity flag is 0, on the state before the command.
WRITE_CODE's writer is open (R303: WRITE_CLOSED comes first). -/
def Obligations.NotReadyWithoutTheFlag : Prop :=
  ∀ (i : Instr) (s : State),
    (((∃ c, i = .scanSym c ∨ i = .setBin c) ∨ i = .scanBuf ∨ i = .makeTable) ∧ s.histValid = false)
      ∨ (i = .buildTree ∧ s.tableValid = false)
      ∨ (i = .assignCodes ∧ s.treeValid = false)
      ∨ ((∃ c, i = .writeCode c) ∧ s.wrClosed = false ∧ s.codesValid = false)
      ∨ (i = .decodeSym ∧ (s.treeValid = false ∨ s.nnodes = 0)) →
    exec i s = .next (raise .notReady (encode i) s)

/-! ### Who writes what (10_state.md) -/

/-- 10_state.md R38, R39, R41-R44, R48-R53: the registers and arrays each command may change. No command changes
ARG, IN_LEN or IBUF. The last four equations are about the model's own fields. -/
def Obligations.OnlyTheNamedCommandsWrite : Prop :=
  ∀ (i : Instr) (s t : State), exec i s = .next t →
    (t.cfg = s.cfg ∧ t.arg = s.arg ∧ t.inLen = s.inLen ∧ t.ibuf = s.ibuf)
      ∧ (t.hist ≠ s.hist ∨ t.total ≠ s.total →
          i = .clearHist ∨ i = .scanBuf ∨ ∃ c, i = .scanSym c ∨ i = .setBin c)
      ∧ (t.ftSym ≠ s.ftSym ∨ t.ftCnt ≠ s.ftCnt ∨ t.nsyms ≠ s.nsyms → i = .makeTable)
      ∧ (t.nodeW ≠ s.nodeW ∨ t.nodeInfo ≠ s.nodeInfo ∨ t.nnodes ≠ s.nnodes ∨ t.root ≠ s.root → i = .buildTree)
      ∧ (t.codeLen ≠ s.codeLen ∨ t.codeBits ≠ s.codeBits → i = .assignCodes)
      ∧ (t.result ≠ s.result → i = .decodeSym ∨ i = .makeTable ∨ ∃ n, i = .readBits n)
      ∧ (t.rdPos ≠ s.rdPos → i = .rdReset ∨ i = .rdAlign ∨ i = .decodeSym ∨ ∃ n, i = .readBits n)
      ∧ (t.obuf ≠ s.obuf ∨ t.outBytes ≠ s.outBytes ∨ t.wrNbits ≠ s.wrNbits ∨ t.wrAcc ≠ s.wrAcc →
          i = .wrReset ∨ i = .flush ∨ i = .close ∨ (∃ b, i = .writeBit b) ∨ (∃ n, i = .writeBits n)
            ∨ ∃ c, i = .writeCode c)
      ∧ (t.inReset = s.inReset ∧ t.turns = s.turns ∧ t.reply = s.reply ∧ t.draws = s.draws)

/-- 10_state.md R36, the "set by" and "cleared by" columns of the validity flags and WR_CLOSED. -/
def Obligations.FlagSettersAndClearers : Prop :=
  ∀ (i : Instr) (s t : State), exec i s = .next t →
    (s.histValid = false → t.histValid = true → i = .clearHist)
      ∧ (s.histValid = true → t.histValid = true)
      ∧ (s.tableValid = false → t.tableValid = true → i = .makeTable)
      ∧ (s.tableValid = true → t.tableValid = false →
          i = .clearHist ∨ i = .scanBuf ∨ ∃ c, i = .scanSym c ∨ i = .setBin c)
      ∧ (s.treeValid = false → t.treeValid = true → i = .buildTree)
      ∧ (s.treeValid = true → t.treeValid = false →
          i = .makeTable ∨ i = .clearHist ∨ i = .scanBuf ∨ ∃ c, i = .scanSym c ∨ i = .setBin c)
      ∧ (s.codesValid = false → t.codesValid = true → i = .assignCodes)
      ∧ (s.codesValid = true → t.codesValid = false →
          i = .buildTree ∨ i = .makeTable ∨ i = .clearHist ∨ i = .scanBuf ∨ ∃ c, i = .scanSym c ∨ i = .setBin c)
      ∧ (s.wrClosed = false → t.wrClosed = true → i = .close)
      ∧ (s.wrClosed = true → t.wrClosed = false → i = .wrReset)

/-- 42_frequency.md R205: every command that writes HIST clears TABLE_VALID, TREE_VALID and CODES_VALID, when it
completes. -/
def Obligations.HistWritersInvalidateDerivations : Prop :=
  ∀ (i : Instr) (s t : State), (i = .clearHist ∨ i = .scanBuf ∨ ∃ c, i = .scanSym c ∨ i = .setBin c) →
    exec i s = .next t → (∀ e, t ≠ raise e (encode i) s) →
    t.tableValid = false ∧ t.treeValid = false ∧ t.codesValid = false

/-! ### NOP and the bit-stream buffer (40_control.md, 41_bitstream.md) -/

/-- 40_control.md R153, 41_bitstream.md R164 and R169: NOP has no effect; WR_RESET empties and reopens the writer,
leaves OBUF's cells, and leaves no byte of OBUF defined for the host; RD_RESET moves the reader to bit 0. All
three complete on every state. -/
def Obligations.NopAndRestartsComplete : Prop :=
  ∀ s : State,
    exec .nop s = .next s
      ∧ exec .wrReset s = .next { s with wrAcc := 0, wrNbits := 0, outBytes := 0, wrClosed := false }
      ∧ (∀ k, obufCell { s with wrAcc := 0, wrNbits := 0, outBytes := 0, wrClosed := false } k
          = Config.freeByte (s.draws + k))
      ∧ exec .rdReset s = .next { s with rdPos := 0 }

/-- The frame of a command that appends to the output stream: only the writer's registers and the bytes of OBUF
from the old OUT_BYTES up to the new one change. -/
def WriterFrame (s t : State) : Prop :=
  t = { s with obuf := t.obuf, outBytes := t.outBytes, wrAcc := t.wrAcc, wrNbits := t.wrNbits }
    ∧ ∀ k, k < s.outBytes.toNat ∨ t.outBytes.toNat ≤ k → Cells.read t.obuf k = Cells.read s.obuf k

/-- 41_bitstream.md R160, R162, R163, R165, R166: WRITE_BIT appends its bit and WRITE_BITS n appends ARG[n-1] down to
ARG[0] to the output stream, all of them or none, with WRITE_CLOSED before OBUF_FULL. -/
def Obligations.WriteBitsAppendToTheStream : Prop :=
  ∀ (i : Instr) (bits : List Bool) (s : State), s.cfg.wf = true → i.wf = true →
    ((∃ b, i = .writeBit b ∧ bits = [b])
      ∨ (∃ n, i = .writeBits n ∧ bits.length = n
          ∧ ∀ k, k < n → bits[k]? = some (s.arg.getLsbD (n - 1 - k)))) →
    (s.wrClosed = true → exec i s = .next (raise .writeClosed (encode i) s))
      ∧ (s.wrClosed = false → s.cfg.obufSize < s.outBytes.toNat + (s.wrNbits.toNat + bits.length) / 8 →
          exec i s = .next (raise .obufFull (encode i) s))
      ∧ (s.wrClosed = false → s.outBytes.toNat + (s.wrNbits.toNat + bits.length) / 8 ≤ s.cfg.obufSize →
          ∃ t, exec i s = .next t ∧ outStream t = outStream s ++ bits ∧ WriterFrame s t)

/-- 45_payload.md R270: WRITE_CODE appends the symbol's code, the bit nearest the root first; WRITE_CLOSED, NOT_READY,
UNKNOWN_SYMBOL and OBUF_FULL in that order. -/
def Obligations.WriteCodeAppendsTheCode : Prop :=
  ∀ (c : Byte) (bits : List Bool) (s : State), s.cfg.wf = true →
    bits.length = codeLength s c →
    (∀ k, k < codeLength s c →
      bits[k]? = some ((wordCell s s.codeBits (8 * c.toNat + k / 32)).getLsbD (31 - k % 32))) →
    (s.wrClosed = true → exec (.writeCode c) s = .next (raise .writeClosed (encode (.writeCode c)) s))
      ∧ (s.wrClosed = false → s.codesValid = false →
          exec (.writeCode c) s = .next (raise .notReady (encode (.writeCode c)) s))
      ∧ (s.wrClosed = false → s.codesValid = true → codeLength s c = 0 →
          exec (.writeCode c) s = .next (raise .unknownSymbol (encode (.writeCode c)) s))
      ∧ (s.wrClosed = false → s.codesValid = true → codeLength s c ≠ 0 →
          s.cfg.obufSize < s.outBytes.toNat + (s.wrNbits.toNat + codeLength s c) / 8 →
          exec (.writeCode c) s = .next (raise .obufFull (encode (.writeCode c)) s))
      ∧ (s.wrClosed = false → s.codesValid = true → codeLength s c ≠ 0 →
          s.outBytes.toNat + (s.wrNbits.toNat + codeLength s c) / 8 ≤ s.cfg.obufSize →
          ∃ t, exec (.writeCode c) s = .next t ∧ outStream t = outStream s ++ bits ∧ WriterFrame s t)

/-- 41_bitstream.md R167 and R174: FLUSH does nothing at a byte boundary, raises OBUF_FULL without room, and otherwise
pads the partial byte with zero bits and emits it. -/
def Obligations.FlushPadsWithZeroBits : Prop :=
  ∀ s : State, WriterInv s →
    (s.wrNbits = 0 → exec .flush s = .next s)
      ∧ (s.wrNbits ≠ 0 → s.cfg.obufSize < s.outBytes.toNat + 1 →
          exec .flush s = .next (raise .obufFull (encode .flush) s))
      ∧ (s.wrNbits ≠ 0 → s.outBytes.toNat + 1 ≤ s.cfg.obufSize →
          ∃ t, exec .flush s = .next t ∧ t.outBytes.toNat = s.outBytes.toNat + 1 ∧ t.wrNbits = 0 ∧ t.wrAcc = 0
            ∧ outStream t = outStream s ++ List.replicate (8 - s.wrNbits.toNat) false ∧ WriterFrame s t)

/-- 41_bitstream.md R168: CLOSE of a closed writer does nothing; CLOSE without room raises OBUF_FULL and leaves the
writer open; otherwise it flushes and closes, and OUT_BYTES is then the whole stream in bytes. -/
def Obligations.CloseFlushesAndCloses : Prop :=
  ∀ s : State, WriterInv s →
    (s.wrClosed = true → exec .close s = .next s)
      ∧ (s.wrClosed = false → s.wrNbits ≠ 0 → s.cfg.obufSize < s.outBytes.toNat + 1 →
          exec .close s = .next (raise .obufFull (encode .close) s))
      ∧ (s.wrClosed = false → s.wrNbits = 0 ∨ s.outBytes.toNat + 1 ≤ s.cfg.obufSize →
          ∃ t, exec .close s = .next t ∧ t.wrClosed = true ∧ t.wrNbits = 0 ∧ t.wrAcc = 0
            ∧ outLength t = 8 * t.outBytes.toNat
            ∧ outStream t = outStream s ++ List.replicate ((8 - s.wrNbits.toNat) % 8) false
            ∧ WriterFrame s { t with wrClosed := s.wrClosed })

/-- 41_bitstream.md R170 and R171: READ_BITS n puts the next n bits into RESULT, the first most significant, or raises
TRUNCATED_STREAM and consumes nothing. Nothing but RESULT and RD_POS changes. -/
def Obligations.ReadBitsTakesTheNextBits : Prop :=
  ∀ (n : Nat) (s : State), (Instr.readBits n).wf = true →
    (avail s < s.rdPos.toNat + n →
        exec (.readBits n) s = .next (raise .truncatedStream (encode (.readBits n)) s))
      ∧ (s.rdPos.toNat + n ≤ avail s →
          ∃ t, exec (.readBits n) s = .next t
            ∧ (∀ k, k < n → t.result.getLsbD (n - 1 - k) = inBit s (s.rdPos.toNat + k) k)
            ∧ (∀ k, n ≤ k → t.result.getLsbD k = false)
            ∧ t.rdPos.toNat = s.rdPos.toNat + n
            ∧ t = { s with result := t.result, rdPos := t.rdPos })

/-- 41_bitstream.md R172: RD_ALIGN moves RD_POS up to the next multiple of 8, changes nothing else, is idempotent, and
never passes the end of a stream RD_POS is within. -/
def Obligations.ReadAlignRoundsUp : Prop :=
  ∀ s : State, ReaderInv s →
    ∃ t, exec .rdAlign s = .next t ∧ t = { s with rdPos := t.rdPos }
      ∧ t.rdPos.toNat % 8 = 0 ∧ s.rdPos.toNat ≤ t.rdPos.toNat ∧ t.rdPos.toNat < s.rdPos.toNat + 8
      ∧ exec .rdAlign t = .next t
      ∧ (s.rdPos.toNat ≤ 8 * s.inLen.toNat → t.rdPos.toNat ≤ 8 * s.inLen.toNat)

/-- 41_bitstream.md R160, R161, R173 and 20_memory.md R92: after the host copies OBUF back to IBUF, the reader reads at
every position the bit the writer wrote there, under either BIT_ORDER. -/
def Obligations.ReaderSeesWhatTheWriterWrote : Prop :=
  ∀ s : State, WriterInv s → s.outBytes.toNat ≤ s.cfg.ibufSize →
    avail (copyBack s) = 8 * s.outBytes.toNat
      ∧ ∀ k i, k < 8 * s.outBytes.toNat → inBit (copyBack s) k i = outBit s k

/-! ### The frequency scanner (42_frequency.md) -/

/-- 42_frequency.md R200: CLEAR_HIST completes on every state, with every bin and TOTAL 0, HIST_VALID 1, the three
derived flags 0, and nothing else changed. -/
def Obligations.ClearHistZeroesTheHistogram : Prop :=
  ∀ s : State, ∃ t, exec .clearHist s = .next t
    ∧ (∀ k, k < 256 → Cells.read t.hist k = some 0) ∧ t.total = 0 ∧ t.histValid = true
    ∧ t = { s with hist := t.hist, total := 0, histValid := true
                   tableValid := false, treeValid := false, codesValid := false }

/-- The frame of a command that counts: HIST, TOTAL and the three derived flags. -/
def CountFrame (s t : State) : Prop :=
  t = { s with hist := t.hist, total := t.total, tableValid := false, treeValid := false, codesValid := false }

/-- 42_frequency.md R201: SCAN_SYM adds 1 to its symbol's bin and to TOTAL, or raises NOT_READY or COUNT_OVERFLOW. -/
def Obligations.ScanSymCountsOne : Prop :=
  ∀ (c : Byte) (s : State), TableInv s →
    (s.histValid = false → exec (.scanSym c) s = .next (raise .notReady (encode (.scanSym c)) s))
      ∧ (s.histValid = true → s.cfg.cmax < s.total.toNat + 1 →
          exec (.scanSym c) s = .next (raise .countOverflow (encode (.scanSym c)) s))
      ∧ (s.histValid = true → s.total.toNat + 1 ≤ s.cfg.cmax →
          ∃ t, exec (.scanSym c) s = .next t
            ∧ histCount t c.toNat = histCount s c.toNat + 1
            ∧ (∀ k, k ≠ c.toNat → Cells.read t.hist k = Cells.read s.hist k)
            ∧ t.total.toNat = s.total.toNat + 1 ∧ CountFrame s t)

/-- 42_frequency.md R202: SCAN_BUF adds to each bin the number of its bytes among IBUF[0..IN_LEN-1] and IN_LEN to TOTAL,
all of them or none, or raises NOT_READY or COUNT_OVERFLOW. A byte the host never wrote is a free value. -/
def Obligations.ScanBufCountsEveryByte : Prop :=
  ∀ s : State, TableInv s →
    (s.histValid = false → exec .scanBuf s = .next (raise .notReady (encode .scanBuf) s))
      ∧ (s.histValid = true → s.cfg.cmax < s.total.toNat + s.inLen.toNat →
          exec .scanBuf s = .next (raise .countOverflow (encode .scanBuf) s))
      ∧ (s.histValid = true → s.total.toNat + s.inLen.toNat ≤ s.cfg.cmax →
          ∃ t, exec .scanBuf s = .next t
            ∧ (∀ k, k < 256 → histCount t k = histCount s k
                + ((List.range s.inLen.toNat).filter fun j => (byteCell s s.ibuf j j).toNat == k).length)
            ∧ t.total.toNat = s.total.toNat + s.inLen.toNat ∧ CountFrame s t)

/-- 42_frequency.md R203: SET_BIN sets its symbol's bin to ARG and moves TOTAL by the difference, or raises NOT_READY or
COUNT_OVERFLOW. -/
def Obligations.SetBinReplacesTheCount : Prop :=
  ∀ (c : Byte) (s : State), TableInv s →
    (s.histValid = false → exec (.setBin c) s = .next (raise .notReady (encode (.setBin c)) s))
      ∧ (s.histValid = true →
          s.cfg.cmax < s.arg.toNat ∨ s.cfg.cmax + histCount s c.toNat < s.total.toNat + s.arg.toNat →
          exec (.setBin c) s = .next (raise .countOverflow (encode (.setBin c)) s))
      ∧ (s.histValid = true → s.arg.toNat ≤ s.cfg.cmax →
          s.total.toNat + s.arg.toNat ≤ s.cfg.cmax + histCount s c.toNat →
          ∃ t, exec (.setBin c) s = .next t
            ∧ Cells.read t.hist c.toNat = some s.arg
            ∧ (∀ k, k ≠ c.toNat → Cells.read t.hist k = Cells.read s.hist k)
            ∧ t.total.toNat + histCount s c.toNat = s.total.toNat + s.arg.toNat ∧ CountFrame s t)

/-- 42_frequency.md R204 and 10_state.md R51: MAKE_TABLE leaves exactly the pairs (s, HIST[s]) with HIST[s] >= 1 in the
table, ascending by (count, symbol), with (0, 0) after them and RESULT = NSYMS; repeating it changes nothing. -/
def Obligations.MakeTableSortsTheHistogram : Prop :=
  ∀ s : State, TableInv s →
    (s.histValid = false → exec .makeTable s = .next (raise .notReady (encode .makeTable) s))
      ∧ (s.histValid = true →
          ∃ t, exec .makeTable s = .next t ∧ TableOk t ∧ t.result.toNat = t.nsyms.toNat
            ∧ exec .makeTable t = .next t
            ∧ t = { s with ftSym := t.ftSym, ftCnt := t.ftCnt, nsyms := t.nsyms, result := t.result
                           tableValid := true, treeValid := false, codesValid := false })

/-! ### The tree builder (43_tree.md) -/

/-- 43_tree.md R230-R233: BUILD_TREE builds a full binary tree over the table, each merge taking the two smallest keys
(weight, index) left, right of the nodes not yet removed; repeating it changes nothing. -/
def Obligations.BuildTreeMergesTheSmallest : Prop :=
  ∀ s : State, TableInv s →
    (s.tableValid = false → exec .buildTree s = .next (raise .notReady (encode .buildTree) s))
      ∧ (s.tableValid = true →
          ∃ t, exec .buildTree s = .next t ∧ TreeOk t ∧ GreedyMerges t ∧ exec .buildTree t = .next t
            ∧ t = { s with nodeW := t.nodeW, nodeInfo := t.nodeInfo, nnodes := t.nnodes, root := t.root
                           treeValid := true, codesValid := false })

/-- 43_tree.md R233, last point: the tree is a function of FT_SYM[0..n-1] and FT_CNT[0..n-1] alone, so a decoder's
tree, built from a loaded table, is the encoder's. -/
def Obligations.TreeDependsOnTheTableAlone : Prop :=
  ∀ s s' t t' : State, s.cfg.cntW = s'.cfg.cntW → s.nsyms = s'.nsyms →
    (∀ i, i < s.nsyms.toNat → ftSymAt s i = ftSymAt s' i ∧ ftCntAt s i = ftCntAt s' i) →
    s.tableValid = true → s'.tableValid = true →
    exec .buildTree s = .next t → exec .buildTree s' = .next t' →
    t.nodeW = t'.nodeW ∧ t.nodeInfo = t'.nodeInfo ∧ t.nnodes = t'.nnodes ∧ t.root = t'.root

/-! ### The code assigner (44_codes.md) -/

/-- 44_codes.md R250-R253: ASSIGN_CODES gives every symbol of the table the path from ROOT to its leaf (left 0, right 1;
"0" for a single leaf), no code to any other symbol, and 0 in every unused bit; repeating it changes nothing. -/
def Obligations.AssignCodesGivesThePaths : Prop :=
  ∀ s : State, TreeInv s →
    (s.treeValid = false → exec .assignCodes s = .next (raise .notReady (encode .assignCodes) s))
      ∧ (s.treeValid = true →
          ∃ t, exec .assignCodes s = .next t ∧ CodesOk t ∧ exec .assignCodes t = .next t
            ∧ t = { s with codeLen := t.codeLen, codeBits := t.codeBits, codesValid := true })

/-- 44_codes.md R254: no code is a prefix of another symbol's code. -/
def Obligations.CodesArePrefixFree : Prop :=
  ∀ (s : State) (a b : Byte), CodesInv s → s.codesValid = true → a ≠ b →
    1 ≤ codeLength s a → 1 ≤ codeLength s b → ¬ (codeSeq s a <+: codeSeq s b)

/-- 44_codes.md R254: exactly the table's symbols have a code, and the codes fill the code space: the sum of
2^-CODE_LEN is 1 for two or more symbols and 1/2 for one (both sides times 2^255). -/
def Obligations.CodesFillTheCodeSpace : Prop :=
  ∀ s : State, CodesInv s → s.codesValid = true →
    (∀ c : Byte, 1 ≤ codeLength s c ↔ ∃ i, i < s.nsyms.toNat ∧ ftSymAt s i = c)
      ∧ (s.nsyms.toNat = 1 →
          ((List.range s.nsyms.toNat).map fun i => 2 ^ (255 - codeLength s (ftSymAt s i))).sum = 2 ^ 254)
      ∧ (2 ≤ s.nsyms.toNat →
          ((List.range s.nsyms.toNat).map fun i => 2 ^ (255 - codeLength s (ftSymAt s i))).sum = 2 ^ 255)

/-! ### The payload (45_payload.md) -/

/-- 45_payload.md R271: DECODE_SYM follows the input bits from ROOT to a leaf, returns its symbol and consumes exactly
those bits; it raises TRUNCATED_STREAM where no leaf is reached in the bits there are, and on a single-leaf tree takes
one bit, which must be 0 (BAD_CODE). Nothing but RESULT and RD_POS changes. -/
def Obligations.DecodeSymFollowsTheBits : Prop :=
  ∀ s : State, s.treeValid = true → s.nnodes ≠ 0 →
    (infoLeaf (nodeInfoAt s s.root.toNat) = true →
        (avail s < s.rdPos.toNat + 1 →
            exec .decodeSym s = .next (raise .truncatedStream (encode .decodeSym) s))
          ∧ (s.rdPos.toNat + 1 ≤ avail s → inBit s s.rdPos.toNat 0 = true →
              exec .decodeSym s = .next (raise .badCode (encode .decodeSym) s))
          ∧ (s.rdPos.toNat + 1 ≤ avail s → inBit s s.rdPos.toNat 0 = false →
              ∃ t, exec .decodeSym s = .next t ∧ t.rdPos.toNat = s.rdPos.toNat + 1
                ∧ t.result = (infoSym (nodeInfoAt s s.root.toNat)).setWidth 32
                ∧ t = { s with result := t.result, rdPos := t.rdPos }))
      ∧ (infoLeaf (nodeInfoAt s s.root.toNat) = false →
          (∀ (p : List Bool) (j : Nat), follow (nodeInfoAt s) s.root.toNat p = some j →
              infoLeaf (nodeInfoAt s j) = true → s.rdPos.toNat + p.length ≤ avail s →
              (∀ k, k < p.length → p[k]? = some (inBit s (s.rdPos.toNat + k) k)) →
              ∃ t, exec .decodeSym s = .next t ∧ t.rdPos.toNat = s.rdPos.toNat + p.length
                ∧ t.result = (infoSym (nodeInfoAt s j)).setWidth 32
                ∧ t = { s with result := t.result, rdPos := t.rdPos })
            ∧ ((∀ k j, k ≤ avail s - s.rdPos.toNat → follow (nodeInfoAt s) s.root.toNat (inBits s k) = some j →
                  infoLeaf (nodeInfoAt s j) = false) →
                exec .decodeSym s = .next (raise .truncatedStream (encode .decodeSym) s)))

/-- 45_payload.md R273: every sequence of symbols that have codes, encoded from an empty open writer, closed, and copied
back, is decoded to itself, with no error. -/
def Obligations.PayloadRoundTrip : Prop :=
  ∀ (s : State) (symbols : List Byte), CodesInv s → s.codesValid = true → WriterInv s → s.wrClosed = false →
    outLength s = 0 → s.err = false → (∀ c ∈ symbols, 1 ≤ codeLength s c) →
    ((symbols.map (codeLength s)).sum + 7) / 8 ≤ s.cfg.obufSize →
    ((symbols.map (codeLength s)).sum + 7) / 8 ≤ s.cfg.ibufSize →
    ∃ t, execAll (symbols.map Instr.writeCode ++ [.close]) s = .next t ∧ t.err = false
      ∧ t.outBytes.toNat = ((symbols.map (codeLength s)).sum + 7) / 8
      ∧ decodeAll symbols.length (copyBack t) = some (symbols.map fun c => c.setWidth 32)

/-! ### The host bus (20_memory.md) -/

/-- 20_memory.md R84 and R85: the address map, and the reserved addresses with the tails of the two buffer windows. -/
def Obligations.AddressMapAsListed : Prop :=
  ∀ cfg : Config, cfg.wf = true →
    ([0x0000, 0x0004, 0x0008, 0x000C, 0x0010, 0x0014, 0x0018, 0x001C, 0x0020, 0x0024, 0x0028, 0x002C, 0x0030, 0x0034,
        0x0038, 0x003C, 0x0040, 0x0044].map (locate cfg)
      = [Target.id, .config, .ibufSize, .obufSize, .cmd, .status, .arg, .result, .errCmd, .total, .nsyms, .nnodes,
          .root, .outBytes, .wrNbits, .wrAcc, .inLen, .rdPos].map some)
    ∧ (∀ k, k < 256 → locate cfg (0x1000 + 4 * k) = some (.hist k) ∧ locate cfg (0x1400 + 4 * k) = some (.ftSym k)
        ∧ locate cfg (0x1800 + 4 * k) = some (.ftCnt k) ∧ locate cfg (0x3000 + 4 * k) = some (.codeLen k))
    ∧ (∀ k, k < 511 → locate cfg (0x2000 + 4 * k) = some (.nodeW k)
        ∧ locate cfg (0x2800 + 4 * k) = some (.nodeInfo k))
    ∧ (∀ c w, c < 256 → w < 8 → locate cfg (0x4000 + 32 * c + 4 * w) = some (.codeBits (8 * c + w)))
    ∧ (∀ k, k < cfg.ibufSize → locate cfg (0x8000 + 4 * k) = some (.ibuf k))
    ∧ (∀ k, k < cfg.obufSize → locate cfg (0xC000 + 4 * k) = some (.obuf k))
    ∧ (∀ a, a % 4 = 0 →
        (0x0048 ≤ a ∧ a ≤ 0x0FFC) ∨ (0x1C00 ≤ a ∧ a ≤ 0x1FFC) ∨ a = 0x27FC ∨ a = 0x2FFC
          ∨ (0x3400 ≤ a ∧ a ≤ 0x3FFC) ∨ (0x6000 ≤ a ∧ a ≤ 0x7FFC)
          ∨ (0x8000 + 4 * cfg.ibufSize ≤ a ∧ a ≤ 0xBFFC) ∨ (0xC000 + 4 * cfg.obufSize ≤ a ∧ a ≤ 0xFFFC) →
        locate cfg a = none)

/-- 20_memory.md R82, R83, R85: an access that is not 32 bits wide and aligned, or that reaches a reserved address, gets
BUS_ERR with data 0 and changes no state; every other access gets OK. The model's own: OK also for a read while BUSY
(log entry 7) and for a dropped ARG, IN_LEN or IBUF write (log entry 8), and the field `reply` with data 0 for a write
(log entry 15). -/
def Obligations.BusErrorsChangeNothing : Prop :=
  ∀ (s : State) (size : Nat) (a : BitVec 16) (v : Word),
    (size ≠ 4 ∨ a.toNat % 4 ≠ 0 ∨ locate s.cfg a.toNat = none →
        access s (.read size a) = { s with reply := some ⟨.busErr, 0⟩ }
          ∧ access s (.write size a v) = { s with reply := some ⟨.busErr, 0⟩ })
      ∧ (size = 4 → a.toNat % 4 = 0 → locate s.cfg a.toNat ≠ none →
          (∃ d, access s (.read size a) = { s with reply := some ⟨.ok, d⟩ })
            ∧ (access s (.write size a v)).reply = some ⟨.ok, 0⟩)

/-- 20_memory.md R86, R89: a read has no side effect, a write to a read-only place is ignored, and CMD reads 0. -/
def Obligations.ReadsAndReadOnlyWritesHaveNoEffect : Prop :=
  (∀ (s : State) (size : Nat) (a : BitVec 16),
      { access s (.read size a) with reply := s.reply } = s)
    ∧ (∀ (s : State) (v : Word) (t : Target),
        t ≠ .cmd → t ≠ .status → t ≠ .arg → t ≠ .inLen → (∀ k, t ≠ .ibuf k) → writeTarget v s t = s)
    ∧ (∀ s : State, readData s .cmd = 0)

/-- 40_control.md R151 and 60_exceptions.md R304: a write to CMD is dropped and sets DROP while BUSY or ERR, and otherwise
becomes the pending command; the outcome is OK either way. The field `reply` and its data 0 are the model's (log entry
15). -/
def Obligations.CommandWriteIsAcceptedOrDropped : Prop :=
  ∀ (s : State) (c : Word),
    (s.busy = true ∨ s.err = true →
        access s (.write 4 0x0010 c) = { s with drop := true, reply := some ⟨.ok, 0⟩ })
      ∧ (s.busy = false → s.err = false →
          access s (.write 4 0x0010 c) = { s with pending := some c, reply := some ⟨.ok, 0⟩ })

/-- 10_state.md R37 and 60_exceptions.md R305: what a write to STATUS clears, also while BUSY, and nothing else. The
outcome OK is 20_memory.md R82's; the field `reply` and its data 0 are the model's (log entry 15). -/
def Obligations.StatusWriteClears : Prop :=
  ∀ (s : State) (v : Word),
    access s (.write 4 0x0014 v) = { s with
      err := s.err && !v.getLsbD 1
      errcode := if v.getLsbD 1 then .none else s.errcode
      errCmd := if v.getLsbD 1 then 0 else s.errCmd
      drop := s.drop && !v.getLsbD 2
      reply := some ⟨.ok, 0⟩ }

/-- 10_state.md R36 and 60_exceptions.md R300: the fields of the STATUS word; bits 31:16 read 0 and ERRCODE is one of
0x00-0x08. -/
def Obligations.StatusWordFields : Prop :=
  ∀ s : State,
    (statusWord s).getLsbD 0 = s.pending.isSome ∧ (statusWord s).getLsbD 1 = s.err
      ∧ (statusWord s).getLsbD 2 = s.drop ∧ (statusWord s).getLsbD 3 = s.histValid
      ∧ (statusWord s).getLsbD 4 = s.tableValid ∧ (statusWord s).getLsbD 5 = s.treeValid
      ∧ (statusWord s).getLsbD 6 = s.codesValid ∧ (statusWord s).getLsbD 7 = s.wrClosed
      ∧ (statusWord s).extractLsb' 8 8 = s.errcode.code ∧ (statusWord s).extractLsb' 16 16 = 0
      ∧ ((statusWord s).extractLsb' 8 8).toNat ≤ 8

/-- 10_state.md R31, R33, R34: ID, the fields of CONFIG with its reserved bits 0, and the two size registers, with the
words the default parameters give. -/
def Obligations.ConfigReportsTheParameters : Prop :=
  ∀ s : State, s.cfg.wf = true →
    readData s .id = 0x48554631
      ∧ ((readData s .config).extractLsb' 0 6).toNat = s.cfg.cntW
      ∧ (readData s .config).extractLsb' 6 2 = 0
      ∧ (readData s .config).getLsbD 8 = decide (s.cfg.bitOrder = .lsbFirst)
      ∧ (readData s .config).extractLsb' 9 23 = 0
      ∧ (readData s .ibufSize).toNat = s.cfg.ibufSize ∧ (readData s .obufSize).toNat = s.cfg.obufSize
      ∧ (s.cfg.cntW = 32 → s.cfg.bitOrder = .msbFirst → s.cfg.ibufSize = 4096 → s.cfg.obufSize = 4096 →
          readData s .config = 0x20 ∧ readData s .ibufSize = 0x1000 ∧ readData s .obufSize = 0x1000)

/-- 20_memory.md R88 and 70_reset_and_hazards.md R351, R352: while BUSY, the six addresses read their defined values
(STATUS its word, CMD 0; ID, CONFIG and the sizes as ConfigReportsTheParameters says of every state), every other place
reads a free word (log entry 7), and writes to ARG, IN_LEN and IBUF are dropped and set DROP. -/
def Obligations.BusyAccesses : Prop :=
  ∀ (s : State) (v : Word), s.busy = true →
    (∀ t, t ∈ [Target.id, .config, .ibufSize, .obufSize, .cmd, .status] → readData s t = readTarget s t)
      ∧ readData s .status = statusWord s ∧ readData s .cmd = 0
      ∧ (∀ t, t ∉ [Target.id, .config, .ibufSize, .obufSize, .cmd, .status] → readData s t = Config.freeWord s.draws)
      ∧ writeTarget v s .arg = { s with drop := true } ∧ writeTarget v s .inLen = { s with drop := true }
      ∧ (∀ k, writeTarget v s (.ibuf k) = { s with drop := true })

/-- 10_state.md R38, R48, R54 and 20_memory.md R87: in an idle block the host's write to ARG stores it, to IN_LEN stores
min(v, IBUF_SIZE), and to IBUF[k] stores v[7:0] and leaves every other byte; each reads back zero-extended. -/
def Obligations.IdleOperandWritesStore : Prop :=
  ∀ (s : State) (v : Word), s.busy = false → s.cfg.wf = true →
    (writeTarget v s .arg = { s with arg := v } ∧ readData (writeTarget v s .arg) .arg = v)
      ∧ ((readData (writeTarget v s .inLen) .inLen).toNat = min v.toNat s.cfg.ibufSize
          ∧ writeTarget v s .inLen = { s with inLen := (writeTarget v s .inLen).inLen })
      ∧ (∀ k, readData (writeTarget v s (.ibuf k)) (.ibuf k) = v &&& 0xFF
          ∧ (∀ i, i ≠ k → Cells.read (writeTarget v s (.ibuf k)).ibuf i = Cells.read s.ibuf i)
          ∧ writeTarget v s (.ibuf k) = { s with ibuf := (writeTarget v s (.ibuf k)).ibuf })

/-- 10_state.md R55, R59 and 93_implementation_defined.md U1, U4: in an idle block, OBUF below OUT_BYTES reads the byte
emitted and a free byte from there on, and a cell of any of the nine arrays that holds no value reads a free value of
its width, zero-extended. The draw numbers are the model's (log entry 4), and so are the zeros above the width (log
entry 6). -/
def Obligations.UnspecifiedCellsReadFreeValues : Prop :=
  ∀ (s : State) (k : Nat), s.busy = false →
    (∀ b, k < s.outBytes.toNat → Cells.read s.obuf k = some b → readData s (.obuf k) = b.setWidth 32)
      ∧ (Cells.read s.obuf k = none ∨ s.outBytes.toNat ≤ k →
          readData s (.obuf k) = (Config.freeByte (s.draws + k)).setWidth 32)
      ∧ (Cells.read s.ibuf k = none → readData s (.ibuf k) = (Config.freeByte (s.draws + k)).setWidth 32)
      ∧ (Cells.read s.ftSym k = none → readData s (.ftSym k) = (Config.freeByte (s.draws + k)).setWidth 32)
      ∧ (Cells.read s.codeLen k = none → readData s (.codeLen k) = (Config.freeByte (s.draws + k)).setWidth 32)
      ∧ (Cells.read s.hist k = none →
          (readData s (.hist k)).toNat = (Config.freeWord (s.draws + k)).toNat % 2 ^ s.cfg.cntW)
      ∧ (Cells.read s.ftCnt k = none →
          (readData s (.ftCnt k)).toNat = (Config.freeWord (s.draws + k)).toNat % 2 ^ s.cfg.cntW)
      ∧ (Cells.read s.nodeW k = none →
          (readData s (.nodeW k)).toNat = (Config.freeWord (s.draws + k)).toNat % 2 ^ s.cfg.cntW)
      ∧ (Cells.read s.nodeInfo k = none → readData s (.nodeInfo k) = Config.freeWord (s.draws + k))
      ∧ (Cells.read s.codeBits k = none → readData s (.codeBits k) = Config.freeWord (s.draws + k))

/-- 20_memory.md R87, the defined side: in an idle block every register reads its own value, and every cell that holds a
value reads it, zero-extended (equal as a number, or set to 32 bits). That a count fits CNT_W bits is
StepKeepsCountWidths. -/
def Obligations.IdleReadsGiveTheirValues : Prop :=
  ∀ s : State, s.busy = false →
    (readData s .status = statusWord s ∧ readData s .arg = s.arg ∧ readData s .result = s.result
        ∧ readData s .errCmd = s.errCmd ∧ readData s .total = s.total)
      ∧ ((readData s .nsyms).toNat = s.nsyms.toNat ∧ (readData s .nnodes).toNat = s.nnodes.toNat
        ∧ (readData s .root).toNat = s.root.toNat ∧ (readData s .outBytes).toNat = s.outBytes.toNat
        ∧ (readData s .wrNbits).toNat = s.wrNbits.toNat ∧ (readData s .wrAcc).toNat = s.wrAcc.toNat
        ∧ (readData s .inLen).toNat = s.inLen.toNat ∧ (readData s .rdPos).toNat = s.rdPos.toNat)
      ∧ (∀ (k : Nat) (v : Word),
          (Cells.read s.hist k = some v → readData s (.hist k) = v)
            ∧ (Cells.read s.ftCnt k = some v → readData s (.ftCnt k) = v)
            ∧ (Cells.read s.nodeW k = some v → readData s (.nodeW k) = v)
            ∧ (Cells.read s.nodeInfo k = some v → readData s (.nodeInfo k) = v)
            ∧ (Cells.read s.codeBits k = some v → readData s (.codeBits k) = v))
      ∧ (∀ (k : Nat) (b : Byte),
          (Cells.read s.ftSym k = some b → readData s (.ftSym k) = b.setWidth 32)
            ∧ (Cells.read s.codeLen k = some b → readData s (.codeLen k) = b.setWidth 32)
            ∧ (Cells.read s.ibuf k = some b → readData s (.ibuf k) = b.setWidth 32)
            ∧ (k < s.outBytes.toNat → Cells.read s.obuf k = some b → readData s (.obuf k) = b.setWidth 32))

/-- 20_memory.md R82, R84: a served access reads or writes the place its address names. The field `reply`, and its data 0
for a write, are the model's (log entry 15). -/
def Obligations.ServedAccessesReachTheirTarget : Prop :=
  ∀ (s : State) (a : BitVec 16) (v : Word) (t : Target), a.toNat % 4 = 0 → locate s.cfg a.toNat = some t →
    access s (.read 4 a) = { s with reply := some ⟨.ok, readData s t⟩ }
      ∧ access s (.write 4 a v) = { writeTarget v s t with reply := some ⟨.ok, 0⟩ }

/-! ### Reset (70_reset_and_hazards.md) -/

/-- 10_state.md R59 and 70_reset_and_hazards.md R340, R341: asserting reset puts every register to its listed value and
leaves no cell with a value, whatever the block was doing; releasing it changes nothing else. -/
def Obligations.ResetPutsTheListedValues : Prop :=
  ∀ (s : State) (rest : List Turn), s.turns = .assertReset :: .releaseReset :: rest →
    ∃ t, Host.Core.run Sys2Proof.core 2 s = .next t ∧
    statusWord t = 0 ∧ t.pending = none ∧ t.arg = 0 ∧ t.result = 0 ∧ t.errCmd = 0 ∧ t.total = 0 ∧ t.nsyms = 0
      ∧ t.nnodes = 0 ∧ t.root = 0x1FF ∧ t.outBytes = 0 ∧ t.wrNbits = 0 ∧ t.wrAcc = 0 ∧ t.inLen = 0 ∧ t.rdPos = 0
      ∧ t.cfg = s.cfg ∧ t.inReset = false ∧ t.turns = rest
      ∧ ∀ k, Cells.read t.hist k = none ∧ Cells.read t.ftSym k = none ∧ Cells.read t.ftCnt k = none
          ∧ Cells.read t.nodeW k = none ∧ Cells.read t.nodeInfo k = none ∧ Cells.read t.codeLen k = none
          ∧ Cells.read t.codeBits k = none ∧ Cells.read t.ibuf k = none ∧ Cells.read t.obuf k = none

/-- The reset state of every instance meets every invariant below, and `State.reset` is the default instance's. -/
def Obligations.ResetMeetsTheInvariants : Prop :=
  State.reset = State.resetOf Config.default ∧ Config.default.wf = true
    ∧ ∀ cfg : Config, cfg.wf = true →
      MemoryInv (State.resetOf cfg) ∧ LatchInv (State.resetOf cfg) ∧ WriterInv (State.resetOf cfg)
        ∧ ReaderInv (State.resetOf cfg) ∧ CodesInv (State.resetOf cfg)

/-! ### Invariants every step keeps -/

/-- Every array keeps its canonical form and lists only cells it has (10_state.md R50-R55, 41_bitstream.md R163). -/
def Obligations.StepKeepsMemoryCanonical : Prop :=
  ∀ s t : State, MemoryInv s → step s = .next t → MemoryInv t

/-- The error latch: ERRCODE and ERR_CMD are 0 while ERR = 0, and no command is pending while ERR = 1 (10_state.md R36,
R37, R40; 60_exceptions.md R304). -/
def Obligations.StepKeepsErrorLatch : Prop :=
  ∀ s t : State, LatchInv s → step s = .next t → LatchInv t

/-- The writer: OUT_BYTES within OBUF_SIZE, unwritten bits of WR_ACC 0, no partial byte when closed, every byte below
OUT_BYTES defined (10_state.md R45, R47, R55; 41_bitstream.md R168). -/
def Obligations.StepKeepsWriterInvariant : Prop :=
  ∀ s t : State, WriterInv s → step s = .next t → WriterInv t

/-- The reader: IN_LEN within IBUF_SIZE and RD_POS within 8 * IBUF_SIZE (10_state.md R48, R49; 00_scope.md R19). -/
def Obligations.StepKeepsReaderBounds : Prop :=
  ∀ s t : State, ReaderInv s → step s = .next t → ReaderInv t

/-- The validity chain up to the table: TOTAL is the sum of the bins and at most CMAX, and a valid table is exactly the
histogram's (10_state.md R41, R51, R57). -/
def Obligations.StepKeepsTableInvariant : Prop :=
  ∀ s t : State, TableInv s → step s = .next t → TableInv t

/-- A valid tree is a full binary tree over the current table (10_state.md R57, 43_tree.md R233). -/
def Obligations.StepKeepsTreeInvariant : Prop :=
  ∀ s t : State, TreeInv s → step s = .next t → TreeInv t

/-- Valid codes are the paths of the current tree (10_state.md R57, 44_codes.md R254). -/
def Obligations.StepKeepsCodesInvariant : Prop :=
  ∀ s t : State, CodesInv s → step s = .next t → CodesInv t

/-- The CNT_W-bit places hold CNT_W bits: TOTAL and every value in HIST, FT_CNT and NODE_W is below 2^CNT_W (00_scope.md
R9; 10_state.md R41, R50-R52), so their reads are zero-extended (20_memory.md R87). Every reset state meets it. -/
def Obligations.StepKeepsCountWidths : Prop :=
  (∀ cfg : Config, CountWidthInv (State.resetOf cfg))
    ∧ ∀ s t : State, CountWidthInv s → step s = .next t → CountWidthInv t

/-- 40_control.md R154: no command hangs: under the tree invariant no step faults, and the only refusal is the host's
access during reset (log entries 10, 14). -/
def Obligations.NoStepStopsUnderTheInvariant : Prop :=
  ∀ s : State, TreeInv s →
    (∀ f, step s ≠ .fault f)
      ∧ (∀ r, step s = .refused r →
          r = .accessDuringReset ∧ s.inReset = true ∧ ∃ a rest, s.turns = .host a :: rest)

/-- 95_test_vectors.md 1.5 and 93_implementation_defined.md U1, U2: where the host wrote every byte below IN_LEN, no
command's outcome depends on a free value. -/
def Obligations.CommandsAreDeterminedByWrittenState : Prop :=
  ∀ (i : Instr) (s t : State) (d : Nat), CodesInv s → InputWritten s → exec i s = .next t →
    exec i { s with draws := d } = .next { t with draws := d }
end

