-- ==== Sys2Proof/Laws/State.lean ====
section
/-! SUPPORT. One lemma per field per named update of State, each true by rfl. -/

namespace Sys2Proof.Machine

/-! ### raise -/

@[simp] theorem raise_cfg (e : ErrCode) (c : Word) (s : State) : (raise e c s).cfg = s.cfg := rfl
@[simp] theorem raise_pending (e : ErrCode) (c : Word) (s : State) : (raise e c s).pending = none := rfl
@[simp] theorem raise_err (e : ErrCode) (c : Word) (s : State) : (raise e c s).err = true := rfl
@[simp] theorem raise_drop (e : ErrCode) (c : Word) (s : State) : (raise e c s).drop = s.drop := rfl
@[simp] theorem raise_histValid (e : ErrCode) (c : Word) (s : State) : (raise e c s).histValid = s.histValid := rfl
@[simp] theorem raise_tableValid (e : ErrCode) (c : Word) (s : State) : (raise e c s).tableValid = s.tableValid := rfl
@[simp] theorem raise_treeValid (e : ErrCode) (c : Word) (s : State) : (raise e c s).treeValid = s.treeValid := rfl
@[simp] theorem raise_codesValid (e : ErrCode) (c : Word) (s : State) : (raise e c s).codesValid = s.codesValid := rfl
@[simp] theorem raise_wrClosed (e : ErrCode) (c : Word) (s : State) : (raise e c s).wrClosed = s.wrClosed := rfl
@[simp] theorem raise_errcode (e : ErrCode) (c : Word) (s : State) : (raise e c s).errcode = e := rfl
@[simp] theorem raise_arg (e : ErrCode) (c : Word) (s : State) : (raise e c s).arg = s.arg := rfl
@[simp] theorem raise_result (e : ErrCode) (c : Word) (s : State) : (raise e c s).result = s.result := rfl
@[simp] theorem raise_errCmd (e : ErrCode) (c : Word) (s : State) : (raise e c s).errCmd = c := rfl
@[simp] theorem raise_total (e : ErrCode) (c : Word) (s : State) : (raise e c s).total = s.total := rfl
@[simp] theorem raise_nsyms (e : ErrCode) (c : Word) (s : State) : (raise e c s).nsyms = s.nsyms := rfl
@[simp] theorem raise_nnodes (e : ErrCode) (c : Word) (s : State) : (raise e c s).nnodes = s.nnodes := rfl
@[simp] theorem raise_root (e : ErrCode) (c : Word) (s : State) : (raise e c s).root = s.root := rfl
@[simp] theorem raise_outBytes (e : ErrCode) (c : Word) (s : State) : (raise e c s).outBytes = s.outBytes := rfl
@[simp] theorem raise_wrNbits (e : ErrCode) (c : Word) (s : State) : (raise e c s).wrNbits = s.wrNbits := rfl
@[simp] theorem raise_wrAcc (e : ErrCode) (c : Word) (s : State) : (raise e c s).wrAcc = s.wrAcc := rfl
@[simp] theorem raise_inLen (e : ErrCode) (c : Word) (s : State) : (raise e c s).inLen = s.inLen := rfl
@[simp] theorem raise_rdPos (e : ErrCode) (c : Word) (s : State) : (raise e c s).rdPos = s.rdPos := rfl
@[simp] theorem raise_hist (e : ErrCode) (c : Word) (s : State) : (raise e c s).hist = s.hist := rfl
@[simp] theorem raise_ftSym (e : ErrCode) (c : Word) (s : State) : (raise e c s).ftSym = s.ftSym := rfl
@[simp] theorem raise_ftCnt (e : ErrCode) (c : Word) (s : State) : (raise e c s).ftCnt = s.ftCnt := rfl
@[simp] theorem raise_nodeW (e : ErrCode) (c : Word) (s : State) : (raise e c s).nodeW = s.nodeW := rfl
@[simp] theorem raise_nodeInfo (e : ErrCode) (c : Word) (s : State) : (raise e c s).nodeInfo = s.nodeInfo := rfl
@[simp] theorem raise_codeLen (e : ErrCode) (c : Word) (s : State) : (raise e c s).codeLen = s.codeLen := rfl
@[simp] theorem raise_codeBits (e : ErrCode) (c : Word) (s : State) : (raise e c s).codeBits = s.codeBits := rfl
@[simp] theorem raise_ibuf (e : ErrCode) (c : Word) (s : State) : (raise e c s).ibuf = s.ibuf := rfl
@[simp] theorem raise_obuf (e : ErrCode) (c : Word) (s : State) : (raise e c s).obuf = s.obuf := rfl
@[simp] theorem raise_inReset (e : ErrCode) (c : Word) (s : State) : (raise e c s).inReset = s.inReset := rfl
@[simp] theorem raise_turns (e : ErrCode) (c : Word) (s : State) : (raise e c s).turns = s.turns := rfl
@[simp] theorem raise_reply (e : ErrCode) (c : Word) (s : State) : (raise e c s).reply = s.reply := rfl
@[simp] theorem raise_draws (e : ErrCode) (c : Word) (s : State) : (raise e c s).draws = s.draws := rfl

/-! ### clearError -/

@[simp] theorem clearError_cfg (s : State) : (clearError s).cfg = s.cfg := rfl
@[simp] theorem clearError_pending (s : State) : (clearError s).pending = s.pending := rfl
@[simp] theorem clearError_err (s : State) : (clearError s).err = false := rfl
@[simp] theorem clearError_drop (s : State) : (clearError s).drop = s.drop := rfl
@[simp] theorem clearError_histValid (s : State) : (clearError s).histValid = s.histValid := rfl
@[simp] theorem clearError_tableValid (s : State) : (clearError s).tableValid = s.tableValid := rfl
@[simp] theorem clearError_treeValid (s : State) : (clearError s).treeValid = s.treeValid := rfl
@[simp] theorem clearError_codesValid (s : State) : (clearError s).codesValid = s.codesValid := rfl
@[simp] theorem clearError_wrClosed (s : State) : (clearError s).wrClosed = s.wrClosed := rfl
@[simp] theorem clearError_errcode (s : State) : (clearError s).errcode = .none := rfl
@[simp] theorem clearError_arg (s : State) : (clearError s).arg = s.arg := rfl
@[simp] theorem clearError_result (s : State) : (clearError s).result = s.result := rfl
@[simp] theorem clearError_errCmd (s : State) : (clearError s).errCmd = 0 := rfl
@[simp] theorem clearError_total (s : State) : (clearError s).total = s.total := rfl
@[simp] theorem clearError_nsyms (s : State) : (clearError s).nsyms = s.nsyms := rfl
@[simp] theorem clearError_nnodes (s : State) : (clearError s).nnodes = s.nnodes := rfl
@[simp] theorem clearError_root (s : State) : (clearError s).root = s.root := rfl
@[simp] theorem clearError_outBytes (s : State) : (clearError s).outBytes = s.outBytes := rfl
@[simp] theorem clearError_wrNbits (s : State) : (clearError s).wrNbits = s.wrNbits := rfl
@[simp] theorem clearError_wrAcc (s : State) : (clearError s).wrAcc = s.wrAcc := rfl
@[simp] theorem clearError_inLen (s : State) : (clearError s).inLen = s.inLen := rfl
@[simp] theorem clearError_rdPos (s : State) : (clearError s).rdPos = s.rdPos := rfl
@[simp] theorem clearError_hist (s : State) : (clearError s).hist = s.hist := rfl
@[simp] theorem clearError_ftSym (s : State) : (clearError s).ftSym = s.ftSym := rfl
@[simp] theorem clearError_ftCnt (s : State) : (clearError s).ftCnt = s.ftCnt := rfl
@[simp] theorem clearError_nodeW (s : State) : (clearError s).nodeW = s.nodeW := rfl
@[simp] theorem clearError_nodeInfo (s : State) : (clearError s).nodeInfo = s.nodeInfo := rfl
@[simp] theorem clearError_codeLen (s : State) : (clearError s).codeLen = s.codeLen := rfl
@[simp] theorem clearError_codeBits (s : State) : (clearError s).codeBits = s.codeBits := rfl
@[simp] theorem clearError_ibuf (s : State) : (clearError s).ibuf = s.ibuf := rfl
@[simp] theorem clearError_obuf (s : State) : (clearError s).obuf = s.obuf := rfl
@[simp] theorem clearError_inReset (s : State) : (clearError s).inReset = s.inReset := rfl
@[simp] theorem clearError_turns (s : State) : (clearError s).turns = s.turns := rfl
@[simp] theorem clearError_reply (s : State) : (clearError s).reply = s.reply := rfl
@[simp] theorem clearError_draws (s : State) : (clearError s).draws = s.draws := rfl

/-! ### clearDrop -/

@[simp] theorem clearDrop_cfg (s : State) : (clearDrop s).cfg = s.cfg := rfl
@[simp] theorem clearDrop_pending (s : State) : (clearDrop s).pending = s.pending := rfl
@[simp] theorem clearDrop_err (s : State) : (clearDrop s).err = s.err := rfl
@[simp] theorem clearDrop_drop (s : State) : (clearDrop s).drop = false := rfl
@[simp] theorem clearDrop_histValid (s : State) : (clearDrop s).histValid = s.histValid := rfl
@[simp] theorem clearDrop_tableValid (s : State) : (clearDrop s).tableValid = s.tableValid := rfl
@[simp] theorem clearDrop_treeValid (s : State) : (clearDrop s).treeValid = s.treeValid := rfl
@[simp] theorem clearDrop_codesValid (s : State) : (clearDrop s).codesValid = s.codesValid := rfl
@[simp] theorem clearDrop_wrClosed (s : State) : (clearDrop s).wrClosed = s.wrClosed := rfl
@[simp] theorem clearDrop_errcode (s : State) : (clearDrop s).errcode = s.errcode := rfl
@[simp] theorem clearDrop_arg (s : State) : (clearDrop s).arg = s.arg := rfl
@[simp] theorem clearDrop_result (s : State) : (clearDrop s).result = s.result := rfl
@[simp] theorem clearDrop_errCmd (s : State) : (clearDrop s).errCmd = s.errCmd := rfl
@[simp] theorem clearDrop_total (s : State) : (clearDrop s).total = s.total := rfl
@[simp] theorem clearDrop_nsyms (s : State) : (clearDrop s).nsyms = s.nsyms := rfl
@[simp] theorem clearDrop_nnodes (s : State) : (clearDrop s).nnodes = s.nnodes := rfl
@[simp] theorem clearDrop_root (s : State) : (clearDrop s).root = s.root := rfl
@[simp] theorem clearDrop_outBytes (s : State) : (clearDrop s).outBytes = s.outBytes := rfl
@[simp] theorem clearDrop_wrNbits (s : State) : (clearDrop s).wrNbits = s.wrNbits := rfl
@[simp] theorem clearDrop_wrAcc (s : State) : (clearDrop s).wrAcc = s.wrAcc := rfl
@[simp] theorem clearDrop_inLen (s : State) : (clearDrop s).inLen = s.inLen := rfl
@[simp] theorem clearDrop_rdPos (s : State) : (clearDrop s).rdPos = s.rdPos := rfl
@[simp] theorem clearDrop_hist (s : State) : (clearDrop s).hist = s.hist := rfl
@[simp] theorem clearDrop_ftSym (s : State) : (clearDrop s).ftSym = s.ftSym := rfl
@[simp] theorem clearDrop_ftCnt (s : State) : (clearDrop s).ftCnt = s.ftCnt := rfl
@[simp] theorem clearDrop_nodeW (s : State) : (clearDrop s).nodeW = s.nodeW := rfl
@[simp] theorem clearDrop_nodeInfo (s : State) : (clearDrop s).nodeInfo = s.nodeInfo := rfl
@[simp] theorem clearDrop_codeLen (s : State) : (clearDrop s).codeLen = s.codeLen := rfl
@[simp] theorem clearDrop_codeBits (s : State) : (clearDrop s).codeBits = s.codeBits := rfl
@[simp] theorem clearDrop_ibuf (s : State) : (clearDrop s).ibuf = s.ibuf := rfl
@[simp] theorem clearDrop_obuf (s : State) : (clearDrop s).obuf = s.obuf := rfl
@[simp] theorem clearDrop_inReset (s : State) : (clearDrop s).inReset = s.inReset := rfl
@[simp] theorem clearDrop_turns (s : State) : (clearDrop s).turns = s.turns := rfl
@[simp] theorem clearDrop_reply (s : State) : (clearDrop s).reply = s.reply := rfl
@[simp] theorem clearDrop_draws (s : State) : (clearDrop s).draws = s.draws := rfl

/-! ### dropWrite -/

@[simp] theorem dropWrite_cfg (s : State) : (dropWrite s).cfg = s.cfg := rfl
@[simp] theorem dropWrite_pending (s : State) : (dropWrite s).pending = s.pending := rfl
@[simp] theorem dropWrite_err (s : State) : (dropWrite s).err = s.err := rfl
@[simp] theorem dropWrite_drop (s : State) : (dropWrite s).drop = true := rfl
@[simp] theorem dropWrite_histValid (s : State) : (dropWrite s).histValid = s.histValid := rfl
@[simp] theorem dropWrite_tableValid (s : State) : (dropWrite s).tableValid = s.tableValid := rfl
@[simp] theorem dropWrite_treeValid (s : State) : (dropWrite s).treeValid = s.treeValid := rfl
@[simp] theorem dropWrite_codesValid (s : State) : (dropWrite s).codesValid = s.codesValid := rfl
@[simp] theorem dropWrite_wrClosed (s : State) : (dropWrite s).wrClosed = s.wrClosed := rfl
@[simp] theorem dropWrite_errcode (s : State) : (dropWrite s).errcode = s.errcode := rfl
@[simp] theorem dropWrite_arg (s : State) : (dropWrite s).arg = s.arg := rfl
@[simp] theorem dropWrite_result (s : State) : (dropWrite s).result = s.result := rfl
@[simp] theorem dropWrite_errCmd (s : State) : (dropWrite s).errCmd = s.errCmd := rfl
@[simp] theorem dropWrite_total (s : State) : (dropWrite s).total = s.total := rfl
@[simp] theorem dropWrite_nsyms (s : State) : (dropWrite s).nsyms = s.nsyms := rfl
@[simp] theorem dropWrite_nnodes (s : State) : (dropWrite s).nnodes = s.nnodes := rfl
@[simp] theorem dropWrite_root (s : State) : (dropWrite s).root = s.root := rfl
@[simp] theorem dropWrite_outBytes (s : State) : (dropWrite s).outBytes = s.outBytes := rfl
@[simp] theorem dropWrite_wrNbits (s : State) : (dropWrite s).wrNbits = s.wrNbits := rfl
@[simp] theorem dropWrite_wrAcc (s : State) : (dropWrite s).wrAcc = s.wrAcc := rfl
@[simp] theorem dropWrite_inLen (s : State) : (dropWrite s).inLen = s.inLen := rfl
@[simp] theorem dropWrite_rdPos (s : State) : (dropWrite s).rdPos = s.rdPos := rfl
@[simp] theorem dropWrite_hist (s : State) : (dropWrite s).hist = s.hist := rfl
@[simp] theorem dropWrite_ftSym (s : State) : (dropWrite s).ftSym = s.ftSym := rfl
@[simp] theorem dropWrite_ftCnt (s : State) : (dropWrite s).ftCnt = s.ftCnt := rfl
@[simp] theorem dropWrite_nodeW (s : State) : (dropWrite s).nodeW = s.nodeW := rfl
@[simp] theorem dropWrite_nodeInfo (s : State) : (dropWrite s).nodeInfo = s.nodeInfo := rfl
@[simp] theorem dropWrite_codeLen (s : State) : (dropWrite s).codeLen = s.codeLen := rfl
@[simp] theorem dropWrite_codeBits (s : State) : (dropWrite s).codeBits = s.codeBits := rfl
@[simp] theorem dropWrite_ibuf (s : State) : (dropWrite s).ibuf = s.ibuf := rfl
@[simp] theorem dropWrite_obuf (s : State) : (dropWrite s).obuf = s.obuf := rfl
@[simp] theorem dropWrite_inReset (s : State) : (dropWrite s).inReset = s.inReset := rfl
@[simp] theorem dropWrite_turns (s : State) : (dropWrite s).turns = s.turns := rfl
@[simp] theorem dropWrite_reply (s : State) : (dropWrite s).reply = s.reply := rfl
@[simp] theorem dropWrite_draws (s : State) : (dropWrite s).draws = s.draws := rfl

/-! ### histChanged -/

@[simp] theorem histChanged_cfg (s : State) : (histChanged s).cfg = s.cfg := rfl
@[simp] theorem histChanged_pending (s : State) : (histChanged s).pending = s.pending := rfl
@[simp] theorem histChanged_err (s : State) : (histChanged s).err = s.err := rfl
@[simp] theorem histChanged_drop (s : State) : (histChanged s).drop = s.drop := rfl
@[simp] theorem histChanged_histValid (s : State) : (histChanged s).histValid = s.histValid := rfl
@[simp] theorem histChanged_tableValid (s : State) : (histChanged s).tableValid = false := rfl
@[simp] theorem histChanged_treeValid (s : State) : (histChanged s).treeValid = false := rfl
@[simp] theorem histChanged_codesValid (s : State) : (histChanged s).codesValid = false := rfl
@[simp] theorem histChanged_wrClosed (s : State) : (histChanged s).wrClosed = s.wrClosed := rfl
@[simp] theorem histChanged_errcode (s : State) : (histChanged s).errcode = s.errcode := rfl
@[simp] theorem histChanged_arg (s : State) : (histChanged s).arg = s.arg := rfl
@[simp] theorem histChanged_result (s : State) : (histChanged s).result = s.result := rfl
@[simp] theorem histChanged_errCmd (s : State) : (histChanged s).errCmd = s.errCmd := rfl
@[simp] theorem histChanged_total (s : State) : (histChanged s).total = s.total := rfl
@[simp] theorem histChanged_nsyms (s : State) : (histChanged s).nsyms = s.nsyms := rfl
@[simp] theorem histChanged_nnodes (s : State) : (histChanged s).nnodes = s.nnodes := rfl
@[simp] theorem histChanged_root (s : State) : (histChanged s).root = s.root := rfl
@[simp] theorem histChanged_outBytes (s : State) : (histChanged s).outBytes = s.outBytes := rfl
@[simp] theorem histChanged_wrNbits (s : State) : (histChanged s).wrNbits = s.wrNbits := rfl
@[simp] theorem histChanged_wrAcc (s : State) : (histChanged s).wrAcc = s.wrAcc := rfl
@[simp] theorem histChanged_inLen (s : State) : (histChanged s).inLen = s.inLen := rfl
@[simp] theorem histChanged_rdPos (s : State) : (histChanged s).rdPos = s.rdPos := rfl
@[simp] theorem histChanged_hist (s : State) : (histChanged s).hist = s.hist := rfl
@[simp] theorem histChanged_ftSym (s : State) : (histChanged s).ftSym = s.ftSym := rfl
@[simp] theorem histChanged_ftCnt (s : State) : (histChanged s).ftCnt = s.ftCnt := rfl
@[simp] theorem histChanged_nodeW (s : State) : (histChanged s).nodeW = s.nodeW := rfl
@[simp] theorem histChanged_nodeInfo (s : State) : (histChanged s).nodeInfo = s.nodeInfo := rfl
@[simp] theorem histChanged_codeLen (s : State) : (histChanged s).codeLen = s.codeLen := rfl
@[simp] theorem histChanged_codeBits (s : State) : (histChanged s).codeBits = s.codeBits := rfl
@[simp] theorem histChanged_ibuf (s : State) : (histChanged s).ibuf = s.ibuf := rfl
@[simp] theorem histChanged_obuf (s : State) : (histChanged s).obuf = s.obuf := rfl
@[simp] theorem histChanged_inReset (s : State) : (histChanged s).inReset = s.inReset := rfl
@[simp] theorem histChanged_turns (s : State) : (histChanged s).turns = s.turns := rfl
@[simp] theorem histChanged_reply (s : State) : (histChanged s).reply = s.reply := rfl
@[simp] theorem histChanged_draws (s : State) : (histChanged s).draws = s.draws := rfl

/-! ### freshDraws -/

@[simp] theorem freshDraws_cfg (s : State) : (freshDraws s).cfg = s.cfg := rfl
@[simp] theorem freshDraws_pending (s : State) : (freshDraws s).pending = s.pending := rfl
@[simp] theorem freshDraws_err (s : State) : (freshDraws s).err = s.err := rfl
@[simp] theorem freshDraws_drop (s : State) : (freshDraws s).drop = s.drop := rfl
@[simp] theorem freshDraws_histValid (s : State) : (freshDraws s).histValid = s.histValid := rfl
@[simp] theorem freshDraws_tableValid (s : State) : (freshDraws s).tableValid = s.tableValid := rfl
@[simp] theorem freshDraws_treeValid (s : State) : (freshDraws s).treeValid = s.treeValid := rfl
@[simp] theorem freshDraws_codesValid (s : State) : (freshDraws s).codesValid = s.codesValid := rfl
@[simp] theorem freshDraws_wrClosed (s : State) : (freshDraws s).wrClosed = s.wrClosed := rfl
@[simp] theorem freshDraws_errcode (s : State) : (freshDraws s).errcode = s.errcode := rfl
@[simp] theorem freshDraws_arg (s : State) : (freshDraws s).arg = s.arg := rfl
@[simp] theorem freshDraws_result (s : State) : (freshDraws s).result = s.result := rfl
@[simp] theorem freshDraws_errCmd (s : State) : (freshDraws s).errCmd = s.errCmd := rfl
@[simp] theorem freshDraws_total (s : State) : (freshDraws s).total = s.total := rfl
@[simp] theorem freshDraws_nsyms (s : State) : (freshDraws s).nsyms = s.nsyms := rfl
@[simp] theorem freshDraws_nnodes (s : State) : (freshDraws s).nnodes = s.nnodes := rfl
@[simp] theorem freshDraws_root (s : State) : (freshDraws s).root = s.root := rfl
@[simp] theorem freshDraws_outBytes (s : State) : (freshDraws s).outBytes = s.outBytes := rfl
@[simp] theorem freshDraws_wrNbits (s : State) : (freshDraws s).wrNbits = s.wrNbits := rfl
@[simp] theorem freshDraws_wrAcc (s : State) : (freshDraws s).wrAcc = s.wrAcc := rfl
@[simp] theorem freshDraws_inLen (s : State) : (freshDraws s).inLen = s.inLen := rfl
@[simp] theorem freshDraws_rdPos (s : State) : (freshDraws s).rdPos = s.rdPos := rfl
@[simp] theorem freshDraws_hist (s : State) : (freshDraws s).hist = s.hist := rfl
@[simp] theorem freshDraws_ftSym (s : State) : (freshDraws s).ftSym = s.ftSym := rfl
@[simp] theorem freshDraws_ftCnt (s : State) : (freshDraws s).ftCnt = s.ftCnt := rfl
@[simp] theorem freshDraws_nodeW (s : State) : (freshDraws s).nodeW = s.nodeW := rfl
@[simp] theorem freshDraws_nodeInfo (s : State) : (freshDraws s).nodeInfo = s.nodeInfo := rfl
@[simp] theorem freshDraws_codeLen (s : State) : (freshDraws s).codeLen = s.codeLen := rfl
@[simp] theorem freshDraws_codeBits (s : State) : (freshDraws s).codeBits = s.codeBits := rfl
@[simp] theorem freshDraws_ibuf (s : State) : (freshDraws s).ibuf = s.ibuf := rfl
@[simp] theorem freshDraws_obuf (s : State) : (freshDraws s).obuf = s.obuf := rfl
@[simp] theorem freshDraws_inReset (s : State) : (freshDraws s).inReset = s.inReset := rfl
@[simp] theorem freshDraws_turns (s : State) : (freshDraws s).turns = s.turns := rfl
@[simp] theorem freshDraws_reply (s : State) : (freshDraws s).reply = s.reply := rfl
@[simp] theorem freshDraws_draws (s : State) : (freshDraws s).draws = s.draws + drawBlock := rfl

/-! ### beginCommand -/

@[simp] theorem beginCommand_cfg (s : State) : (beginCommand s).cfg = s.cfg := rfl
@[simp] theorem beginCommand_pending (s : State) : (beginCommand s).pending = none := rfl
@[simp] theorem beginCommand_err (s : State) : (beginCommand s).err = s.err := rfl
@[simp] theorem beginCommand_drop (s : State) : (beginCommand s).drop = s.drop := rfl
@[simp] theorem beginCommand_histValid (s : State) : (beginCommand s).histValid = s.histValid := rfl
@[simp] theorem beginCommand_tableValid (s : State) : (beginCommand s).tableValid = s.tableValid := rfl
@[simp] theorem beginCommand_treeValid (s : State) : (beginCommand s).treeValid = s.treeValid := rfl
@[simp] theorem beginCommand_codesValid (s : State) : (beginCommand s).codesValid = s.codesValid := rfl
@[simp] theorem beginCommand_wrClosed (s : State) : (beginCommand s).wrClosed = s.wrClosed := rfl
@[simp] theorem beginCommand_errcode (s : State) : (beginCommand s).errcode = s.errcode := rfl
@[simp] theorem beginCommand_arg (s : State) : (beginCommand s).arg = s.arg := rfl
@[simp] theorem beginCommand_result (s : State) : (beginCommand s).result = s.result := rfl
@[simp] theorem beginCommand_errCmd (s : State) : (beginCommand s).errCmd = s.errCmd := rfl
@[simp] theorem beginCommand_total (s : State) : (beginCommand s).total = s.total := rfl
@[simp] theorem beginCommand_nsyms (s : State) : (beginCommand s).nsyms = s.nsyms := rfl
@[simp] theorem beginCommand_nnodes (s : State) : (beginCommand s).nnodes = s.nnodes := rfl
@[simp] theorem beginCommand_root (s : State) : (beginCommand s).root = s.root := rfl
@[simp] theorem beginCommand_outBytes (s : State) : (beginCommand s).outBytes = s.outBytes := rfl
@[simp] theorem beginCommand_wrNbits (s : State) : (beginCommand s).wrNbits = s.wrNbits := rfl
@[simp] theorem beginCommand_wrAcc (s : State) : (beginCommand s).wrAcc = s.wrAcc := rfl
@[simp] theorem beginCommand_inLen (s : State) : (beginCommand s).inLen = s.inLen := rfl
@[simp] theorem beginCommand_rdPos (s : State) : (beginCommand s).rdPos = s.rdPos := rfl
@[simp] theorem beginCommand_hist (s : State) : (beginCommand s).hist = s.hist := rfl
@[simp] theorem beginCommand_ftSym (s : State) : (beginCommand s).ftSym = s.ftSym := rfl
@[simp] theorem beginCommand_ftCnt (s : State) : (beginCommand s).ftCnt = s.ftCnt := rfl
@[simp] theorem beginCommand_nodeW (s : State) : (beginCommand s).nodeW = s.nodeW := rfl
@[simp] theorem beginCommand_nodeInfo (s : State) : (beginCommand s).nodeInfo = s.nodeInfo := rfl
@[simp] theorem beginCommand_codeLen (s : State) : (beginCommand s).codeLen = s.codeLen := rfl
@[simp] theorem beginCommand_codeBits (s : State) : (beginCommand s).codeBits = s.codeBits := rfl
@[simp] theorem beginCommand_ibuf (s : State) : (beginCommand s).ibuf = s.ibuf := rfl
@[simp] theorem beginCommand_obuf (s : State) : (beginCommand s).obuf = s.obuf := rfl
@[simp] theorem beginCommand_inReset (s : State) : (beginCommand s).inReset = s.inReset := rfl
@[simp] theorem beginCommand_turns (s : State) : (beginCommand s).turns = s.turns := rfl
@[simp] theorem beginCommand_reply (s : State) : (beginCommand s).reply = s.reply := rfl
@[simp] theorem beginCommand_draws (s : State) : (beginCommand s).draws = s.draws + drawBlock := rfl

/-! ### emitByte -/

@[simp] theorem emitByte_cfg (s : State) : (emitByte s).cfg = s.cfg := rfl
@[simp] theorem emitByte_pending (s : State) : (emitByte s).pending = s.pending := rfl
@[simp] theorem emitByte_err (s : State) : (emitByte s).err = s.err := rfl
@[simp] theorem emitByte_drop (s : State) : (emitByte s).drop = s.drop := rfl
@[simp] theorem emitByte_histValid (s : State) : (emitByte s).histValid = s.histValid := rfl
@[simp] theorem emitByte_tableValid (s : State) : (emitByte s).tableValid = s.tableValid := rfl
@[simp] theorem emitByte_treeValid (s : State) : (emitByte s).treeValid = s.treeValid := rfl
@[simp] theorem emitByte_codesValid (s : State) : (emitByte s).codesValid = s.codesValid := rfl
@[simp] theorem emitByte_wrClosed (s : State) : (emitByte s).wrClosed = s.wrClosed := rfl
@[simp] theorem emitByte_errcode (s : State) : (emitByte s).errcode = s.errcode := rfl
@[simp] theorem emitByte_arg (s : State) : (emitByte s).arg = s.arg := rfl
@[simp] theorem emitByte_result (s : State) : (emitByte s).result = s.result := rfl
@[simp] theorem emitByte_errCmd (s : State) : (emitByte s).errCmd = s.errCmd := rfl
@[simp] theorem emitByte_total (s : State) : (emitByte s).total = s.total := rfl
@[simp] theorem emitByte_nsyms (s : State) : (emitByte s).nsyms = s.nsyms := rfl
@[simp] theorem emitByte_nnodes (s : State) : (emitByte s).nnodes = s.nnodes := rfl
@[simp] theorem emitByte_root (s : State) : (emitByte s).root = s.root := rfl
@[simp] theorem emitByte_outBytes (s : State) : (emitByte s).outBytes = BitVec.ofNat 13 (s.outBytes.toNat + 1) := rfl
@[simp] theorem emitByte_wrNbits (s : State) : (emitByte s).wrNbits = 0 := rfl
@[simp] theorem emitByte_wrAcc (s : State) : (emitByte s).wrAcc = 0 := rfl
@[simp] theorem emitByte_inLen (s : State) : (emitByte s).inLen = s.inLen := rfl
@[simp] theorem emitByte_rdPos (s : State) : (emitByte s).rdPos = s.rdPos := rfl
@[simp] theorem emitByte_hist (s : State) : (emitByte s).hist = s.hist := rfl
@[simp] theorem emitByte_ftSym (s : State) : (emitByte s).ftSym = s.ftSym := rfl
@[simp] theorem emitByte_ftCnt (s : State) : (emitByte s).ftCnt = s.ftCnt := rfl
@[simp] theorem emitByte_nodeW (s : State) : (emitByte s).nodeW = s.nodeW := rfl
@[simp] theorem emitByte_nodeInfo (s : State) : (emitByte s).nodeInfo = s.nodeInfo := rfl
@[simp] theorem emitByte_codeLen (s : State) : (emitByte s).codeLen = s.codeLen := rfl
@[simp] theorem emitByte_codeBits (s : State) : (emitByte s).codeBits = s.codeBits := rfl
@[simp] theorem emitByte_ibuf (s : State) : (emitByte s).ibuf = s.ibuf := rfl
@[simp] theorem emitByte_obuf (s : State) : (emitByte s).obuf = Cells.write s.obuf s.outBytes.toNat s.wrAcc := rfl
@[simp] theorem emitByte_inReset (s : State) : (emitByte s).inReset = s.inReset := rfl
@[simp] theorem emitByte_turns (s : State) : (emitByte s).turns = s.turns := rfl
@[simp] theorem emitByte_reply (s : State) : (emitByte s).reply = s.reply := rfl
@[simp] theorem emitByte_draws (s : State) : (emitByte s).draws = s.draws := rfl

/-! ### countSym -/

@[simp] theorem countSym_cfg (c : Byte) (s : State) : (countSym c s).cfg = s.cfg := rfl
@[simp] theorem countSym_pending (c : Byte) (s : State) : (countSym c s).pending = s.pending := rfl
@[simp] theorem countSym_err (c : Byte) (s : State) : (countSym c s).err = s.err := rfl
@[simp] theorem countSym_drop (c : Byte) (s : State) : (countSym c s).drop = s.drop := rfl
@[simp] theorem countSym_histValid (c : Byte) (s : State) : (countSym c s).histValid = s.histValid := rfl
@[simp] theorem countSym_tableValid (c : Byte) (s : State) : (countSym c s).tableValid = s.tableValid := rfl
@[simp] theorem countSym_treeValid (c : Byte) (s : State) : (countSym c s).treeValid = s.treeValid := rfl
@[simp] theorem countSym_codesValid (c : Byte) (s : State) : (countSym c s).codesValid = s.codesValid := rfl
@[simp] theorem countSym_wrClosed (c : Byte) (s : State) : (countSym c s).wrClosed = s.wrClosed := rfl
@[simp] theorem countSym_errcode (c : Byte) (s : State) : (countSym c s).errcode = s.errcode := rfl
@[simp] theorem countSym_arg (c : Byte) (s : State) : (countSym c s).arg = s.arg := rfl
@[simp] theorem countSym_result (c : Byte) (s : State) : (countSym c s).result = s.result := rfl
@[simp] theorem countSym_errCmd (c : Byte) (s : State) : (countSym c s).errCmd = s.errCmd := rfl
@[simp] theorem countSym_total (c : Byte) (s : State) : (countSym c s).total = s.total := rfl
@[simp] theorem countSym_nsyms (c : Byte) (s : State) : (countSym c s).nsyms = s.nsyms := rfl
@[simp] theorem countSym_nnodes (c : Byte) (s : State) : (countSym c s).nnodes = s.nnodes := rfl
@[simp] theorem countSym_root (c : Byte) (s : State) : (countSym c s).root = s.root := rfl
@[simp] theorem countSym_outBytes (c : Byte) (s : State) : (countSym c s).outBytes = s.outBytes := rfl
@[simp] theorem countSym_wrNbits (c : Byte) (s : State) : (countSym c s).wrNbits = s.wrNbits := rfl
@[simp] theorem countSym_wrAcc (c : Byte) (s : State) : (countSym c s).wrAcc = s.wrAcc := rfl
@[simp] theorem countSym_inLen (c : Byte) (s : State) : (countSym c s).inLen = s.inLen := rfl
@[simp] theorem countSym_rdPos (c : Byte) (s : State) : (countSym c s).rdPos = s.rdPos := rfl
@[simp] theorem countSym_hist (c : Byte) (s : State) : (countSym c s).hist = Cells.write s.hist c.toNat (storeCount s.cfg (histCount s c.toNat + 1)) := rfl
@[simp] theorem countSym_ftSym (c : Byte) (s : State) : (countSym c s).ftSym = s.ftSym := rfl
@[simp] theorem countSym_ftCnt (c : Byte) (s : State) : (countSym c s).ftCnt = s.ftCnt := rfl
@[simp] theorem countSym_nodeW (c : Byte) (s : State) : (countSym c s).nodeW = s.nodeW := rfl
@[simp] theorem countSym_nodeInfo (c : Byte) (s : State) : (countSym c s).nodeInfo = s.nodeInfo := rfl
@[simp] theorem countSym_codeLen (c : Byte) (s : State) : (countSym c s).codeLen = s.codeLen := rfl
@[simp] theorem countSym_codeBits (c : Byte) (s : State) : (countSym c s).codeBits = s.codeBits := rfl
@[simp] theorem countSym_ibuf (c : Byte) (s : State) : (countSym c s).ibuf = s.ibuf := rfl
@[simp] theorem countSym_obuf (c : Byte) (s : State) : (countSym c s).obuf = s.obuf := rfl
@[simp] theorem countSym_inReset (c : Byte) (s : State) : (countSym c s).inReset = s.inReset := rfl
@[simp] theorem countSym_turns (c : Byte) (s : State) : (countSym c s).turns = s.turns := rfl
@[simp] theorem countSym_reply (c : Byte) (s : State) : (countSym c s).reply = s.reply := rfl
@[simp] theorem countSym_draws (c : Byte) (s : State) : (countSym c s).draws = s.draws := rfl

/-! ### decoded -/

@[simp] theorem decoded_cfg (s : State) (j p : Nat) : (decoded s j p).cfg = s.cfg := rfl
@[simp] theorem decoded_pending (s : State) (j p : Nat) : (decoded s j p).pending = s.pending := rfl
@[simp] theorem decoded_err (s : State) (j p : Nat) : (decoded s j p).err = s.err := rfl
@[simp] theorem decoded_drop (s : State) (j p : Nat) : (decoded s j p).drop = s.drop := rfl
@[simp] theorem decoded_histValid (s : State) (j p : Nat) : (decoded s j p).histValid = s.histValid := rfl
@[simp] theorem decoded_tableValid (s : State) (j p : Nat) : (decoded s j p).tableValid = s.tableValid := rfl
@[simp] theorem decoded_treeValid (s : State) (j p : Nat) : (decoded s j p).treeValid = s.treeValid := rfl
@[simp] theorem decoded_codesValid (s : State) (j p : Nat) : (decoded s j p).codesValid = s.codesValid := rfl
@[simp] theorem decoded_wrClosed (s : State) (j p : Nat) : (decoded s j p).wrClosed = s.wrClosed := rfl
@[simp] theorem decoded_errcode (s : State) (j p : Nat) : (decoded s j p).errcode = s.errcode := rfl
@[simp] theorem decoded_arg (s : State) (j p : Nat) : (decoded s j p).arg = s.arg := rfl
@[simp] theorem decoded_result (s : State) (j p : Nat) : (decoded s j p).result = (infoSym (nodeInfoAt s j)).setWidth 32 := rfl
@[simp] theorem decoded_errCmd (s : State) (j p : Nat) : (decoded s j p).errCmd = s.errCmd := rfl
@[simp] theorem decoded_total (s : State) (j p : Nat) : (decoded s j p).total = s.total := rfl
@[simp] theorem decoded_nsyms (s : State) (j p : Nat) : (decoded s j p).nsyms = s.nsyms := rfl
@[simp] theorem decoded_nnodes (s : State) (j p : Nat) : (decoded s j p).nnodes = s.nnodes := rfl
@[simp] theorem decoded_root (s : State) (j p : Nat) : (decoded s j p).root = s.root := rfl
@[simp] theorem decoded_outBytes (s : State) (j p : Nat) : (decoded s j p).outBytes = s.outBytes := rfl
@[simp] theorem decoded_wrNbits (s : State) (j p : Nat) : (decoded s j p).wrNbits = s.wrNbits := rfl
@[simp] theorem decoded_wrAcc (s : State) (j p : Nat) : (decoded s j p).wrAcc = s.wrAcc := rfl
@[simp] theorem decoded_inLen (s : State) (j p : Nat) : (decoded s j p).inLen = s.inLen := rfl
@[simp] theorem decoded_rdPos (s : State) (j p : Nat) : (decoded s j p).rdPos = BitVec.ofNat 16 p := rfl
@[simp] theorem decoded_hist (s : State) (j p : Nat) : (decoded s j p).hist = s.hist := rfl
@[simp] theorem decoded_ftSym (s : State) (j p : Nat) : (decoded s j p).ftSym = s.ftSym := rfl
@[simp] theorem decoded_ftCnt (s : State) (j p : Nat) : (decoded s j p).ftCnt = s.ftCnt := rfl
@[simp] theorem decoded_nodeW (s : State) (j p : Nat) : (decoded s j p).nodeW = s.nodeW := rfl
@[simp] theorem decoded_nodeInfo (s : State) (j p : Nat) : (decoded s j p).nodeInfo = s.nodeInfo := rfl
@[simp] theorem decoded_codeLen (s : State) (j p : Nat) : (decoded s j p).codeLen = s.codeLen := rfl
@[simp] theorem decoded_codeBits (s : State) (j p : Nat) : (decoded s j p).codeBits = s.codeBits := rfl
@[simp] theorem decoded_ibuf (s : State) (j p : Nat) : (decoded s j p).ibuf = s.ibuf := rfl
@[simp] theorem decoded_obuf (s : State) (j p : Nat) : (decoded s j p).obuf = s.obuf := rfl
@[simp] theorem decoded_inReset (s : State) (j p : Nat) : (decoded s j p).inReset = s.inReset := rfl
@[simp] theorem decoded_turns (s : State) (j p : Nat) : (decoded s j p).turns = s.turns := rfl
@[simp] theorem decoded_reply (s : State) (j p : Nat) : (decoded s j p).reply = s.reply := rfl
@[simp] theorem decoded_draws (s : State) (j p : Nat) : (decoded s j p).draws = s.draws := rfl

/-! ### storeInLen -/

@[simp] theorem storeInLen_cfg (v : Word) (s : State) : (storeInLen v s).cfg = s.cfg := rfl
@[simp] theorem storeInLen_pending (v : Word) (s : State) : (storeInLen v s).pending = s.pending := rfl
@[simp] theorem storeInLen_err (v : Word) (s : State) : (storeInLen v s).err = s.err := rfl
@[simp] theorem storeInLen_drop (v : Word) (s : State) : (storeInLen v s).drop = s.drop := rfl
@[simp] theorem storeInLen_histValid (v : Word) (s : State) : (storeInLen v s).histValid = s.histValid := rfl
@[simp] theorem storeInLen_tableValid (v : Word) (s : State) : (storeInLen v s).tableValid = s.tableValid := rfl
@[simp] theorem storeInLen_treeValid (v : Word) (s : State) : (storeInLen v s).treeValid = s.treeValid := rfl
@[simp] theorem storeInLen_codesValid (v : Word) (s : State) : (storeInLen v s).codesValid = s.codesValid := rfl
@[simp] theorem storeInLen_wrClosed (v : Word) (s : State) : (storeInLen v s).wrClosed = s.wrClosed := rfl
@[simp] theorem storeInLen_errcode (v : Word) (s : State) : (storeInLen v s).errcode = s.errcode := rfl
@[simp] theorem storeInLen_arg (v : Word) (s : State) : (storeInLen v s).arg = s.arg := rfl
@[simp] theorem storeInLen_result (v : Word) (s : State) : (storeInLen v s).result = s.result := rfl
@[simp] theorem storeInLen_errCmd (v : Word) (s : State) : (storeInLen v s).errCmd = s.errCmd := rfl
@[simp] theorem storeInLen_total (v : Word) (s : State) : (storeInLen v s).total = s.total := rfl
@[simp] theorem storeInLen_nsyms (v : Word) (s : State) : (storeInLen v s).nsyms = s.nsyms := rfl
@[simp] theorem storeInLen_nnodes (v : Word) (s : State) : (storeInLen v s).nnodes = s.nnodes := rfl
@[simp] theorem storeInLen_root (v : Word) (s : State) : (storeInLen v s).root = s.root := rfl
@[simp] theorem storeInLen_outBytes (v : Word) (s : State) : (storeInLen v s).outBytes = s.outBytes := rfl
@[simp] theorem storeInLen_wrNbits (v : Word) (s : State) : (storeInLen v s).wrNbits = s.wrNbits := rfl
@[simp] theorem storeInLen_wrAcc (v : Word) (s : State) : (storeInLen v s).wrAcc = s.wrAcc := rfl
@[simp] theorem storeInLen_inLen (v : Word) (s : State) : (storeInLen v s).inLen = BitVec.ofNat 13 (min v.toNat s.cfg.ibufSize) := rfl
@[simp] theorem storeInLen_rdPos (v : Word) (s : State) : (storeInLen v s).rdPos = s.rdPos := rfl
@[simp] theorem storeInLen_hist (v : Word) (s : State) : (storeInLen v s).hist = s.hist := rfl
@[simp] theorem storeInLen_ftSym (v : Word) (s : State) : (storeInLen v s).ftSym = s.ftSym := rfl
@[simp] theorem storeInLen_ftCnt (v : Word) (s : State) : (storeInLen v s).ftCnt = s.ftCnt := rfl
@[simp] theorem storeInLen_nodeW (v : Word) (s : State) : (storeInLen v s).nodeW = s.nodeW := rfl
@[simp] theorem storeInLen_nodeInfo (v : Word) (s : State) : (storeInLen v s).nodeInfo = s.nodeInfo := rfl
@[simp] theorem storeInLen_codeLen (v : Word) (s : State) : (storeInLen v s).codeLen = s.codeLen := rfl
@[simp] theorem storeInLen_codeBits (v : Word) (s : State) : (storeInLen v s).codeBits = s.codeBits := rfl
@[simp] theorem storeInLen_ibuf (v : Word) (s : State) : (storeInLen v s).ibuf = s.ibuf := rfl
@[simp] theorem storeInLen_obuf (v : Word) (s : State) : (storeInLen v s).obuf = s.obuf := rfl
@[simp] theorem storeInLen_inReset (v : Word) (s : State) : (storeInLen v s).inReset = s.inReset := rfl
@[simp] theorem storeInLen_turns (v : Word) (s : State) : (storeInLen v s).turns = s.turns := rfl
@[simp] theorem storeInLen_reply (v : Word) (s : State) : (storeInLen v s).reply = s.reply := rfl
@[simp] theorem storeInLen_draws (v : Word) (s : State) : (storeInLen v s).draws = s.draws := rfl

/-! ### storeIbuf -/

@[simp] theorem storeIbuf_cfg (k : Nat) (v : Word) (s : State) : (storeIbuf k v s).cfg = s.cfg := rfl
@[simp] theorem storeIbuf_pending (k : Nat) (v : Word) (s : State) : (storeIbuf k v s).pending = s.pending := rfl
@[simp] theorem storeIbuf_err (k : Nat) (v : Word) (s : State) : (storeIbuf k v s).err = s.err := rfl
@[simp] theorem storeIbuf_drop (k : Nat) (v : Word) (s : State) : (storeIbuf k v s).drop = s.drop := rfl
@[simp] theorem storeIbuf_histValid (k : Nat) (v : Word) (s : State) : (storeIbuf k v s).histValid = s.histValid := rfl
@[simp] theorem storeIbuf_tableValid (k : Nat) (v : Word) (s : State) : (storeIbuf k v s).tableValid = s.tableValid := rfl
@[simp] theorem storeIbuf_treeValid (k : Nat) (v : Word) (s : State) : (storeIbuf k v s).treeValid = s.treeValid := rfl
@[simp] theorem storeIbuf_codesValid (k : Nat) (v : Word) (s : State) : (storeIbuf k v s).codesValid = s.codesValid := rfl
@[simp] theorem storeIbuf_wrClosed (k : Nat) (v : Word) (s : State) : (storeIbuf k v s).wrClosed = s.wrClosed := rfl
@[simp] theorem storeIbuf_errcode (k : Nat) (v : Word) (s : State) : (storeIbuf k v s).errcode = s.errcode := rfl
@[simp] theorem storeIbuf_arg (k : Nat) (v : Word) (s : State) : (storeIbuf k v s).arg = s.arg := rfl
@[simp] theorem storeIbuf_result (k : Nat) (v : Word) (s : State) : (storeIbuf k v s).result = s.result := rfl
@[simp] theorem storeIbuf_errCmd (k : Nat) (v : Word) (s : State) : (storeIbuf k v s).errCmd = s.errCmd := rfl
@[simp] theorem storeIbuf_total (k : Nat) (v : Word) (s : State) : (storeIbuf k v s).total = s.total := rfl
@[simp] theorem storeIbuf_nsyms (k : Nat) (v : Word) (s : State) : (storeIbuf k v s).nsyms = s.nsyms := rfl
@[simp] theorem storeIbuf_nnodes (k : Nat) (v : Word) (s : State) : (storeIbuf k v s).nnodes = s.nnodes := rfl
@[simp] theorem storeIbuf_root (k : Nat) (v : Word) (s : State) : (storeIbuf k v s).root = s.root := rfl
@[simp] theorem storeIbuf_outBytes (k : Nat) (v : Word) (s : State) : (storeIbuf k v s).outBytes = s.outBytes := rfl
@[simp] theorem storeIbuf_wrNbits (k : Nat) (v : Word) (s : State) : (storeIbuf k v s).wrNbits = s.wrNbits := rfl
@[simp] theorem storeIbuf_wrAcc (k : Nat) (v : Word) (s : State) : (storeIbuf k v s).wrAcc = s.wrAcc := rfl
@[simp] theorem storeIbuf_inLen (k : Nat) (v : Word) (s : State) : (storeIbuf k v s).inLen = s.inLen := rfl
@[simp] theorem storeIbuf_rdPos (k : Nat) (v : Word) (s : State) : (storeIbuf k v s).rdPos = s.rdPos := rfl
@[simp] theorem storeIbuf_hist (k : Nat) (v : Word) (s : State) : (storeIbuf k v s).hist = s.hist := rfl
@[simp] theorem storeIbuf_ftSym (k : Nat) (v : Word) (s : State) : (storeIbuf k v s).ftSym = s.ftSym := rfl
@[simp] theorem storeIbuf_ftCnt (k : Nat) (v : Word) (s : State) : (storeIbuf k v s).ftCnt = s.ftCnt := rfl
@[simp] theorem storeIbuf_nodeW (k : Nat) (v : Word) (s : State) : (storeIbuf k v s).nodeW = s.nodeW := rfl
@[simp] theorem storeIbuf_nodeInfo (k : Nat) (v : Word) (s : State) : (storeIbuf k v s).nodeInfo = s.nodeInfo := rfl
@[simp] theorem storeIbuf_codeLen (k : Nat) (v : Word) (s : State) : (storeIbuf k v s).codeLen = s.codeLen := rfl
@[simp] theorem storeIbuf_codeBits (k : Nat) (v : Word) (s : State) : (storeIbuf k v s).codeBits = s.codeBits := rfl
@[simp] theorem storeIbuf_ibuf (k : Nat) (v : Word) (s : State) : (storeIbuf k v s).ibuf = Cells.write s.ibuf k (v.setWidth 8) := rfl
@[simp] theorem storeIbuf_obuf (k : Nat) (v : Word) (s : State) : (storeIbuf k v s).obuf = s.obuf := rfl
@[simp] theorem storeIbuf_inReset (k : Nat) (v : Word) (s : State) : (storeIbuf k v s).inReset = s.inReset := rfl
@[simp] theorem storeIbuf_turns (k : Nat) (v : Word) (s : State) : (storeIbuf k v s).turns = s.turns := rfl
@[simp] theorem storeIbuf_reply (k : Nat) (v : Word) (s : State) : (storeIbuf k v s).reply = s.reply := rfl
@[simp] theorem storeIbuf_draws (k : Nat) (v : Word) (s : State) : (storeIbuf k v s).draws = s.draws := rfl

/-! ### releaseReset -/

@[simp] theorem releaseReset_cfg (s : State) : (releaseReset s).cfg = s.cfg := rfl
@[simp] theorem releaseReset_pending (s : State) : (releaseReset s).pending = s.pending := rfl
@[simp] theorem releaseReset_err (s : State) : (releaseReset s).err = s.err := rfl
@[simp] theorem releaseReset_drop (s : State) : (releaseReset s).drop = s.drop := rfl
@[simp] theorem releaseReset_histValid (s : State) : (releaseReset s).histValid = s.histValid := rfl
@[simp] theorem releaseReset_tableValid (s : State) : (releaseReset s).tableValid = s.tableValid := rfl
@[simp] theorem releaseReset_treeValid (s : State) : (releaseReset s).treeValid = s.treeValid := rfl
@[simp] theorem releaseReset_codesValid (s : State) : (releaseReset s).codesValid = s.codesValid := rfl
@[simp] theorem releaseReset_wrClosed (s : State) : (releaseReset s).wrClosed = s.wrClosed := rfl
@[simp] theorem releaseReset_errcode (s : State) : (releaseReset s).errcode = s.errcode := rfl
@[simp] theorem releaseReset_arg (s : State) : (releaseReset s).arg = s.arg := rfl
@[simp] theorem releaseReset_result (s : State) : (releaseReset s).result = s.result := rfl
@[simp] theorem releaseReset_errCmd (s : State) : (releaseReset s).errCmd = s.errCmd := rfl
@[simp] theorem releaseReset_total (s : State) : (releaseReset s).total = s.total := rfl
@[simp] theorem releaseReset_nsyms (s : State) : (releaseReset s).nsyms = s.nsyms := rfl
@[simp] theorem releaseReset_nnodes (s : State) : (releaseReset s).nnodes = s.nnodes := rfl
@[simp] theorem releaseReset_root (s : State) : (releaseReset s).root = s.root := rfl
@[simp] theorem releaseReset_outBytes (s : State) : (releaseReset s).outBytes = s.outBytes := rfl
@[simp] theorem releaseReset_wrNbits (s : State) : (releaseReset s).wrNbits = s.wrNbits := rfl
@[simp] theorem releaseReset_wrAcc (s : State) : (releaseReset s).wrAcc = s.wrAcc := rfl
@[simp] theorem releaseReset_inLen (s : State) : (releaseReset s).inLen = s.inLen := rfl
@[simp] theorem releaseReset_rdPos (s : State) : (releaseReset s).rdPos = s.rdPos := rfl
@[simp] theorem releaseReset_hist (s : State) : (releaseReset s).hist = s.hist := rfl
@[simp] theorem releaseReset_ftSym (s : State) : (releaseReset s).ftSym = s.ftSym := rfl
@[simp] theorem releaseReset_ftCnt (s : State) : (releaseReset s).ftCnt = s.ftCnt := rfl
@[simp] theorem releaseReset_nodeW (s : State) : (releaseReset s).nodeW = s.nodeW := rfl
@[simp] theorem releaseReset_nodeInfo (s : State) : (releaseReset s).nodeInfo = s.nodeInfo := rfl
@[simp] theorem releaseReset_codeLen (s : State) : (releaseReset s).codeLen = s.codeLen := rfl
@[simp] theorem releaseReset_codeBits (s : State) : (releaseReset s).codeBits = s.codeBits := rfl
@[simp] theorem releaseReset_ibuf (s : State) : (releaseReset s).ibuf = s.ibuf := rfl
@[simp] theorem releaseReset_obuf (s : State) : (releaseReset s).obuf = s.obuf := rfl
@[simp] theorem releaseReset_inReset (s : State) : (releaseReset s).inReset = false := rfl
@[simp] theorem releaseReset_turns (s : State) : (releaseReset s).turns = s.turns := rfl
@[simp] theorem releaseReset_reply (s : State) : (releaseReset s).reply = s.reply := rfl
@[simp] theorem releaseReset_draws (s : State) : (releaseReset s).draws = s.draws := rfl

end Sys2Proof.Machine
end

