-- ==== Sys2Proof/Laws/Cells.lean ====
section
/-! SUPPORT. Arrays of cells: read after write, filling, the canonical form, and its one reading. -/

namespace Sys2Proof.Machine.Cells

variable {α : Type}

@[simp] theorem read_nil (k : Nat) : Cells.read ([] : Cells α) k = none := rfl

@[simp] theorem read_write_same (m : Cells α) (k : Nat) (v : α) :
    Cells.read (Cells.write m k v) k = some v := by
  induction m with
  | nil => simp [Cells.write, Cells.read]
  | cons e m ih =>
    obtain ⟨j, w⟩ := e
    unfold Cells.write
    split
    · simp [Cells.read]
    · split
      · simp [Cells.read]
      · rename_i h2
        simp [Cells.read, Ne.symm h2, ih]

theorem read_write_ne (m : Cells α) {k i : Nat} (v : α) (h : i ≠ k) :
    Cells.read (Cells.write m k v) i = Cells.read m i := by
  induction m with
  | nil => simp [Cells.write, Cells.read, Ne.symm h]
  | cons e m ih =>
    obtain ⟨j, w⟩ := e
    unfold Cells.write
    split
    · simp [Cells.read, Ne.symm h]
    · split
      · rename_i h2
        subst h2
        simp [Cells.read, Ne.symm h]
      · by_cases hj : j = i
        · simp [Cells.read, hj]
        · simp [Cells.read, hj, ih]

theorem read_write (m : Cells α) (k i : Nat) (v : α) :
    Cells.read (Cells.write m k v) i = if i = k then some v else Cells.read m i := by
  split
  · rename_i h; rw [h, read_write_same]
  · rename_i h; rw [read_write_ne m v h]

/-! ### Filling -/

theorem read_map_range' (f : Nat → α) (a n k : Nat) :
    Cells.read ((List.range' a n).map fun i => (i, f i)) k
      = if a ≤ k ∧ k < a + n then some (f k) else none := by
  induction n generalizing a with
  | zero => simp
  | succ n ih =>
    rw [List.range'_succ, List.map_cons, Cells.read, ih (a + 1)]
    by_cases h : a = k
    · subst h; simp
    · simp only [h, if_false]
      by_cases h1 : a + 1 ≤ k ∧ k < a + 1 + n
      · rw [if_pos h1, if_pos (by omega)]
      · rw [if_neg h1, if_neg (by omega)]

theorem read_fill (n : Nat) (f : Nat → α) (k : Nat) :
    Cells.read (Cells.fill n f) k = if k < n then some (f k) else none := by
  unfold Cells.fill
  rw [List.range_eq_range', read_map_range']
  simp

/-! ### The canonical form -/

theorem risesAbove_write {b : Nat} {m : Cells α} {k : Nat} (v : α) (hm : Cells.risesAbove b m = true)
    (hk : b < k) : Cells.risesAbove b (Cells.write m k v) = true := by
  induction m generalizing b with
  | nil => simp [Cells.write, Cells.risesAbove, hk]
  | cons e m ih =>
    obtain ⟨j, w⟩ := e
    simp only [Cells.risesAbove, Bool.and_eq_true, decide_eq_true_eq] at hm
    unfold Cells.write
    split
    · rename_i h; simp [Cells.risesAbove, hk, h, hm.2]
    · split
      · rename_i h1 h2; subst h2; simp [Cells.risesAbove, hk, hm.2]
      · rename_i h1 h2
        simp only [Cells.risesAbove, Bool.and_eq_true, decide_eq_true_eq]
        exact ⟨hm.1, ih hm.2 (by omega)⟩

theorem wf_write {m : Cells α} (k : Nat) (v : α) (hm : Cells.wf m = true) :
    Cells.wf (Cells.write m k v) = true := by
  cases m with
  | nil => rfl
  | cons e m =>
    obtain ⟨j, w⟩ := e
    simp only [Cells.wf] at hm
    unfold Cells.write
    split
    · rename_i h; simp [Cells.wf, Cells.risesAbove, h, hm]
    · split
      · rename_i h1 h2; subst h2; exact hm
      · exact risesAbove_write v hm (by omega)

theorem risesAbove_map_range' (f : Nat → α) {b a : Nat} (n : Nat) (h : b < a) :
    Cells.risesAbove b ((List.range' a n).map fun i => (i, f i)) = true := by
  induction n generalizing b a with
  | zero => rfl
  | succ n ih =>
    rw [List.range'_succ, List.map_cons]
    simp only [Cells.risesAbove, Bool.and_eq_true, decide_eq_true_eq]
    exact ⟨h, ih (by omega)⟩

theorem wf_fill (n : Nat) (f : Nat → α) : Cells.wf (Cells.fill n f) = true := by
  unfold Cells.fill
  rw [List.range_eq_range']
  cases n with
  | zero => rfl
  | succ n =>
    rw [List.range'_succ, List.map_cons]
    exact risesAbove_map_range' f n (by omega)

theorem below_write {m : Cells α} {n k : Nat} (v : α) (hm : Cells.below n m = true) (hk : k < n) :
    Cells.below n (Cells.write m k v) = true := by
  induction m with
  | nil => simp [Cells.write, Cells.below, hk]
  | cons e m ih =>
    obtain ⟨j, w⟩ := e
    simp only [Cells.below, List.all_cons, Bool.and_eq_true, decide_eq_true_eq] at hm ih
    unfold Cells.write
    split
    · simp only [Cells.below, List.all_cons, Bool.and_eq_true, decide_eq_true_eq]
      exact ⟨hk, hm.1, hm.2⟩
    · split
      · simp only [Cells.below, List.all_cons, Bool.and_eq_true, decide_eq_true_eq]
        exact ⟨hk, hm.2⟩
      · simp only [Cells.below, List.all_cons, Bool.and_eq_true, decide_eq_true_eq]
        exact ⟨hm.1, ih hm.2⟩

theorem below_fill (n : Nat) (f : Nat → α) : Cells.below n (Cells.fill n f) = true := by
  simp [Cells.below, Cells.fill]

/-- An array in canonical form whose indices lie above b lists nothing at or below b. -/
theorem read_of_risesAbove {b : Nat} {m : Cells α} (hm : Cells.risesAbove b m = true) {k : Nat} (hk : k ≤ b) :
    Cells.read m k = none := by
  induction m generalizing b with
  | nil => rfl
  | cons e m ih =>
    obtain ⟨j, w⟩ := e
    simp only [Cells.risesAbove, Bool.and_eq_true, decide_eq_true_eq] at hm
    rw [Cells.read, if_neg (by omega), ih hm.2 (by omega)]

theorem wf_of_risesAbove {b : Nat} {m : Cells α} (hm : Cells.risesAbove b m = true) : Cells.wf m = true := by
  cases m with
  | nil => rfl
  | cons e m =>
    simp only [Cells.risesAbove, Bool.and_eq_true] at hm
    exact hm.2

/-- Equal memories are equal data: two arrays in canonical form that read alike are the same list. -/
theorem eq_of_read {m n : Cells α} (hm : Cells.wf m = true) (hn : Cells.wf n = true)
    (h : ∀ k, Cells.read m k = Cells.read n k) : m = n := by
  induction m generalizing n with
  | nil =>
    cases n with
    | nil => rfl
    | cons e n => have := h e.1; simp [Cells.read] at this
  | cons e m ih =>
    obtain ⟨j, w⟩ := e
    cases n with
    | nil => have := h j; simp [Cells.read] at this
    | cons e' n =>
      obtain ⟨i, v⟩ := e'
      simp only [Cells.wf] at hm hn
      have hji : j = i := by
        rcases Nat.lt_trichotomy j i with hlt | heq | hgt
        · have := h j
          rw [Cells.read, if_pos rfl, Cells.read, if_neg (by omega), read_of_risesAbove hn (by omega)] at this
          cases this
        · exact heq
        · have := h i
          rw [Cells.read, if_neg (by omega), read_of_risesAbove hm (by omega), Cells.read, if_pos rfl] at this
          cases this
      subst hji
      have hwv : w = v := by
        have := h j
        simpa [Cells.read] using this
      subst hwv
      rw [ih (wf_of_risesAbove hm) (wf_of_risesAbove hn)]
      intro k
      by_cases hk : k ≤ j
      · rw [read_of_risesAbove hm hk, read_of_risesAbove hn hk]
      · have := h k
        simpa [Cells.read, show j ≠ k by omega] using this

end Sys2Proof.Machine.Cells
end

