-- ==== Sys2Proof/Laws/Ops.lean ====
section
/-! SUPPORT. Each shared operation's cases, said once: what a command's end, an error, the writer, the bus and
the turns can do. -/

namespace Sys2Proof.Machine

/-! ### Errors -/

/-- A stored count is the count modulo 2^CNT_W, for counts a word can hold (00_scope.md R9). -/
theorem storeCount_toNat (cfg : Config) {n : Nat} (h : n < 2 ^ 32) : (storeCount cfg n).toNat = n % 2 ^ cfg.cntW := by
  rw [storeCount, BitVec.toNat_ofNat]
  exact Nat.mod_eq_of_lt (Nat.lt_of_le_of_lt (Nat.mod_le _ _) h)

/-- A stored count fits CNT_W bits. -/
theorem storeCount_lt (cfg : Config) (n : Nat) : (storeCount cfg n).toNat < 2 ^ cfg.cntW := by
  rw [storeCount, BitVec.toNat_ofNat]
  exact Nat.lt_of_le_of_lt (Nat.mod_le _ _) (Nat.mod_lt _ (Nat.two_pow_pos _))

theorem fail_eq (e : ErrCode) (c : Word) (s : State) : fail e c s = .next (raise e c s) := rfl

/-- A failing command ends in exactly the error latch (60_exceptions.md R302). -/
theorem fail_next {e : ErrCode} {c : Word} {s t : State} (h : fail e c s = .next t) : t = raise e c s := by
  unfold fail at h
  injection h with h
  exact h.symm

/-! ### The writer -/

theorem putBit_emits (b : Bool) {s : State} (h : s.wrNbits.toNat = 7) :
    putBit b s = emitByte { s with wrAcc := setBit s.wrAcc (bitPos s.cfg.bitOrder 7) b } := by
  simp [putBit, h]

theorem putBit_keeps (b : Bool) {s : State} (h : s.wrNbits.toNat ≠ 7) :
    putBit b s = { s with
      wrAcc := setBit s.wrAcc (bitPos s.cfg.bitOrder s.wrNbits.toNat) b
      wrNbits := BitVec.ofNat 3 (s.wrNbits.toNat + 1) } := by
  have : ¬ s.wrNbits.toNat + 1 = 8 := by omega
  simp [putBit, this]

/-- PutBit touches only the writer's registers and OBUF. -/
theorem putBit_frame (b : Bool) (s : State) :
    putBit b s = { s with
      obuf := (putBit b s).obuf, outBytes := (putBit b s).outBytes
      wrAcc := (putBit b s).wrAcc, wrNbits := (putBit b s).wrNbits } := by
  by_cases h : s.wrNbits.toNat = 7
  · rw [putBit_emits b h]; rfl
  · rw [putBit_keeps b h]

@[simp] theorem putBits_nil (s : State) : putBits [] s = s := rfl

@[simp] theorem putBits_cons (b : Bool) (bits : List Bool) (s : State) :
    putBits (b :: bits) s = putBits bits (putBit b s) := rfl

theorem putBits_append (xs ys : List Bool) (s : State) : putBits (xs ++ ys) s = putBits ys (putBits xs s) := by
  simp [putBits]

/-- A sequence of bits touches only the writer's registers and OBUF. -/
theorem putBits_frame (bits : List Bool) (s : State) :
    putBits bits s = { s with
      obuf := (putBits bits s).obuf, outBytes := (putBits bits s).outBytes
      wrAcc := (putBits bits s).wrAcc, wrNbits := (putBits bits s).wrNbits } := by
  induction bits generalizing s with
  | nil => rfl
  | cons b bits ih =>
    rw [putBits_cons, ih (putBit b s)]
    generalize (putBits bits (putBit b s)).obuf = o
    generalize (putBits bits (putBit b s)).outBytes = n
    generalize (putBits bits (putBit b s)).wrAcc = a
    generalize (putBits bits (putBit b s)).wrNbits = k
    rw [putBit_frame b s]

/-- What WriteSeq can answer (41_bitstream.md R163). -/
theorem writeSeq_cases (c : Word) (bits : List Bool) (s : State) :
    (s.wrClosed = true ∧ writeSeq c bits s = fail .writeClosed c s)
      ∨ (s.wrClosed = false ∧ s.cfg.obufSize < s.outBytes.toNat + (s.wrNbits.toNat + bits.length) / 8
          ∧ writeSeq c bits s = fail .obufFull c s)
      ∨ (s.wrClosed = false ∧ s.outBytes.toNat + (s.wrNbits.toNat + bits.length) / 8 ≤ s.cfg.obufSize
          ∧ writeSeq c bits s = .next (putBits bits s)) := by
  unfold writeSeq
  cases h : s.wrClosed
  · by_cases hc : s.outBytes.toNat + (s.wrNbits.toNat + bits.length) / 8 > s.cfg.obufSize
    · exact .inr (.inl ⟨rfl, hc, by simp [hc]⟩)
    · exact .inr (.inr ⟨rfl, by omega, by simp [hc]⟩)
  · exact .inl ⟨rfl, by simp⟩

theorem flushed_cases (s : State) :
    (s.wrNbits = 0 ∧ flushed s = s) ∨ (s.wrNbits ≠ 0 ∧ flushed s = emitByte s) := by
  unfold flushed
  by_cases h : s.wrNbits = 0
  · exact .inl ⟨h, if_pos h⟩
  · exact .inr ⟨h, if_neg h⟩

/-! ### The bus -/

/-- What a CMD write can do (40_control.md R151). -/
theorem presentCommand_cases (c : Word) (s : State) :
    ((s.busy = true ∨ s.err = true) ∧ presentCommand c s = dropWrite s)
      ∨ (s.busy = false ∧ s.err = false ∧ presentCommand c s = { s with pending := some c }) := by
  unfold presentCommand
  cases hb : s.busy
  · cases he : s.err
    · exact .inr ⟨rfl, rfl, by simp⟩
    · exact .inl ⟨.inr rfl, by simp⟩
  · exact .inl ⟨.inl rfl, by simp⟩

theorem operandWrite_cases (stored s : State) :
    (s.busy = true ∧ operandWrite stored s = dropWrite s) ∨ (s.busy = false ∧ operandWrite stored s = stored) := by
  unfold operandWrite
  cases s.busy
  · exact .inr ⟨rfl, by simp⟩
  · exact .inl ⟨rfl, by simp⟩

/-- A read changes the reply alone (20_memory.md R89). -/
theorem access_read (s : State) (size : Nat) (a : BitVec 16) :
    access s (.read size a) = { s with reply := (access s (.read size a)).reply } := by
  simp only [access]
  split <;> rfl

/-! ### The turns -/

theorem engineTurn_idle {s : State} (h : s.pending = none) : engineTurn s = .next s := by
  unfold engineTurn
  split
  · rfl
  · simp [h]

theorem engineTurn_pending {s : State} {c : Word} (hr : s.inReset = false) (h : s.pending = some c) :
    engineTurn s = runCommand c (beginCommand s) := by
  simp [engineTurn, hr, h]

theorem runCommand_ok {c : Word} {i : Instr} (h : decode c = .ok i) (s : State) : runCommand c s = exec i s := by
  simp [runCommand, h]

theorem runCommand_illegal {c : Word} {w : IllegalWord} (h : decode c = .error w) (s : State) :
    runCommand c s = fail .illegalCmd c s := by
  simp [runCommand, h]

end Sys2Proof.Machine
end

