-- ==== Sys2Proof/Laws/Memory.lean ====
section
/-! SUPPORT. Every operation on the arrays keeps the canonical form of the state's memory, and reset has it. -/

namespace Sys2Proof.Machine

theorem memWf_resetOf (cfg : Config) : (State.resetOf cfg).memWf = true := rfl

theorem memWf_reset : State.reset.memWf = true := memWf_resetOf _

/-- The canonical form depends on the parameters and the arrays alone. -/
theorem memWf_congr {s t : State} (hc : t.cfg = s.cfg) (h1 : t.hist = s.hist) (h2 : t.ftSym = s.ftSym)
    (h3 : t.ftCnt = s.ftCnt) (h4 : t.nodeW = s.nodeW) (h5 : t.nodeInfo = s.nodeInfo)
    (h6 : t.codeLen = s.codeLen) (h7 : t.codeBits = s.codeBits) (h8 : t.ibuf = s.ibuf) (h9 : t.obuf = s.obuf) :
    t.memWf = s.memWf := by
  simp [State.memWf, hc, h1, h2, h3, h4, h5, h6, h7, h8, h9]

theorem memWf_raise (e : ErrCode) (c : Word) (s : State) : (raise e c s).memWf = s.memWf := rfl

theorem memWf_beginCommand (s : State) : (beginCommand s).memWf = s.memWf := rfl

theorem memWf_histChanged (s : State) : (histChanged s).memWf = s.memWf := rfl

theorem memWf_write_hist {s : State} (h : s.memWf = true) {k : Nat} (hk : k < nsym) (v : Word) :
    ({ s with hist := Cells.write s.hist k v } : State).memWf = true := by
  simp only [State.memWf, Bool.and_eq_true] at h ⊢
  exact ⟨⟨⟨⟨⟨⟨⟨⟨⟨Cells.wf_write _ _ h.1.1.1.1.1.1.1.1.1, Cells.below_write _ h.1.1.1.1.1.1.1.1.2 hk⟩,
    h.1.1.1.1.1.1.1.2⟩, h.1.1.1.1.1.1.2⟩, h.1.1.1.1.1.2⟩, h.1.1.1.1.2⟩, h.1.1.1.2⟩, h.1.1.2⟩, h.1.2⟩, h.2⟩

theorem memWf_countSym {s : State} (h : s.memWf = true) (c : Byte) : (countSym c s).memWf = true :=
  memWf_write_hist h c.isLt _

theorem memWf_countSyms {s : State} (h : s.memWf = true) (l : List Byte) :
    (l.foldl (fun t c => countSym c t) s).memWf = true := by
  induction l generalizing s with
  | nil => exact h
  | cons c l ih => exact ih (memWf_countSym h c)

theorem memWf_storeIbuf {s : State} (h : s.memWf = true) {k : Nat} (hk : k < s.cfg.ibufSize) (v : Word) :
    (storeIbuf k v s).memWf = true := by
  simp only [State.memWf, storeIbuf, Bool.and_eq_true] at h ⊢
  exact ⟨⟨h.1.1, Cells.wf_write _ _ h.1.2.1, Cells.below_write _ h.1.2.2 hk⟩, h.2⟩

theorem memWf_emitByte {s : State} (h : s.memWf = true) (hk : s.outBytes.toNat < s.cfg.obufSize) :
    (emitByte s).memWf = true := by
  simp only [State.memWf, emitByte, Bool.and_eq_true] at h ⊢
  exact ⟨h.1, Cells.wf_write _ _ h.2.1, Cells.below_write _ h.2.2 hk⟩

theorem memWf_flushed {s : State} (h : s.memWf = true) (hk : flushOverflows s = false) :
    (flushed s).memWf = true := by
  obtain ⟨-, he⟩ | ⟨hn, he⟩ := flushed_cases s
  · rw [he]; exact h
  · rw [he]
    refine memWf_emitByte h ?_
    simp only [flushOverflows, Bool.and_eq_false_iff, bne_eq_false_iff_eq, hn, decide_eq_false_iff_not,
      false_or] at hk
    omega

theorem memWf_putBit {s : State} (h : s.memWf = true) (b : Bool)
    (hk : s.wrNbits.toNat = 7 → s.outBytes.toNat < s.cfg.obufSize) : (putBit b s).memWf = true := by
  by_cases h7 : s.wrNbits.toNat = 7
  · rw [putBit_emits b h7]; exact memWf_emitByte h (hk h7)
  · rw [putBit_keeps b h7]; exact h

/-- A sequence that fits keeps the canonical form: every byte it completes lies below OBUF_SIZE
(41_bitstream.md R162, R163). -/
theorem memWf_putBits (bits : List Bool) {s : State} (h : s.memWf = true)
    (hfit : s.outBytes.toNat + (s.wrNbits.toNat + bits.length) / 8 ≤ s.cfg.obufSize) :
    (putBits bits s).memWf = true := by
  induction bits generalizing s with
  | nil => exact h
  | cons b bits ih =>
    rw [putBits_cons]
    simp only [List.length_cons] at hfit
    have hwf : (putBit b s).memWf = true := memWf_putBit h b fun h7 => by omega
    by_cases h7 : s.wrNbits.toNat = 7
    · refine ih hwf ?_
      rw [putBit_emits b h7]
      have h1 : (BitVec.ofNat 13 (s.outBytes.toNat + 1)).toNat ≤ s.outBytes.toNat + 1 := by
        rw [BitVec.toNat_ofNat]; exact Nat.mod_le _ _
      simp only [emitByte_outBytes, emitByte_wrNbits, emitByte_cfg]
      simp only [BitVec.ofNat_eq_ofNat, BitVec.toNat_ofNat, Nat.zero_mod]
      rw [BitVec.toNat_ofNat] at h1
      omega
    · refine ih hwf ?_
      rw [putBit_keeps b h7]
      have := s.wrNbits.isLt
      simp only [BitVec.toNat_ofNat]
      omega

theorem memWf_presentCommand (c : Word) (s : State) : (presentCommand c s).memWf = s.memWf := by
  obtain ⟨-, h⟩ | ⟨-, -, h⟩ := presentCommand_cases c s <;> rw [h] <;> rfl

theorem memWf_writeStatus (v : Word) (s : State) : (writeStatus v s).memWf = s.memWf := by
  unfold writeStatus
  split <;> split <;> rfl

/-- CLEAR_HIST's fill. -/
theorem memWf_fill_hist {s : State} (h : s.memWf = true) (f : Nat → Word) :
    ({ s with hist := Cells.fill nsym f } : State).memWf = true := by
  simp only [State.memWf, Bool.and_eq_true] at h ⊢
  exact ⟨⟨⟨⟨⟨⟨⟨⟨⟨Cells.wf_fill _ _, Cells.below_fill _ _⟩, h.1.1.1.1.1.1.1.2⟩, h.1.1.1.1.1.1.2⟩, h.1.1.1.1.1.2⟩,
    h.1.1.1.1.2⟩, h.1.1.1.2⟩, h.1.1.2⟩, h.1.2⟩, h.2⟩

/-- MAKE_TABLE's fills. -/
theorem memWf_fill_table {s : State} (h : s.memWf = true) (f : Nat → Byte) (g : Nat → Word) :
    ({ s with ftSym := Cells.fill nsym f, ftCnt := Cells.fill nsym g } : State).memWf = true := by
  simp only [State.memWf, Bool.and_eq_true] at h ⊢
  exact ⟨⟨⟨⟨⟨⟨⟨⟨h.1.1.1.1.1.1.1.1, Cells.wf_fill _ _, Cells.below_fill _ _⟩, Cells.wf_fill _ _,
    Cells.below_fill _ _⟩, h.1.1.1.1.1.2⟩, h.1.1.1.1.2⟩, h.1.1.1.2⟩, h.1.1.2⟩, h.1.2⟩, h.2⟩

/-- BUILD_TREE's fills. -/
theorem memWf_fill_tree {s : State} (h : s.memWf = true) (f g : Nat → Word) :
    ({ s with nodeW := Cells.fill maxNodes f, nodeInfo := Cells.fill maxNodes g } : State).memWf = true := by
  simp only [State.memWf, Bool.and_eq_true] at h ⊢
  exact ⟨⟨⟨⟨⟨⟨h.1.1.1.1.1.1, Cells.wf_fill _ _, Cells.below_fill _ _⟩, Cells.wf_fill _ _,
    Cells.below_fill _ _⟩, h.1.1.1.2⟩, h.1.1.2⟩, h.1.2⟩, h.2⟩

/-- ASSIGN_CODES' fills. -/
theorem memWf_fill_codes {s : State} (h : s.memWf = true) (f : Nat → Byte) (g : Nat → Word) :
    ({ s with codeLen := Cells.fill nsym f, codeBits := Cells.fill (8 * nsym) g } : State).memWf = true := by
  simp only [State.memWf, Bool.and_eq_true] at h ⊢
  exact ⟨⟨⟨⟨h.1.1.1.1, Cells.wf_fill _ _, Cells.below_fill _ _⟩, Cells.wf_fill _ _, Cells.below_fill _ _⟩,
    h.1.2⟩, h.2⟩

end Sys2Proof.Machine
end

