-- ==== Sys2Proof/Laws/PerInstr.lean ====
section
/-! SUPPORT. Per-command lemmas: the decoder reads back every command's word. -/

namespace Sys2Proof.Laws.RoundTrip

/-- Decoding the word of a well-formed command gives the command back (30_encoding.md R122-R125). -/
def Statement (i : Instr) : Prop := i.wf = true → decode (encode i) = .ok i

/-- A bit count is 1, ..., 32. -/
theorem count_mem {n : Nat} (h : countOk n = true) : ∃ k : Fin 32, n = k.val + 1 := by
  simp only [countOk, Bool.and_eq_true, decide_eq_true_eq] at h
  exact ⟨⟨n - 1, by omega⟩, by simp; omega⟩

theorem nop : Statement .nop := fun _ => by decide
theorem wrReset : Statement .wrReset := fun _ => by decide
theorem writeBit (b : Bool) : Statement (.writeBit b) := fun _ => by revert b; decide
theorem writeBits (n : Nat) : Statement (.writeBits n) := fun h => by
  obtain ⟨k, rfl⟩ := count_mem h; clear h; revert k; decide
theorem flush : Statement .flush := fun _ => by decide
theorem close : Statement .close := fun _ => by decide
theorem rdReset : Statement .rdReset := fun _ => by decide
theorem readBits (n : Nat) : Statement (.readBits n) := fun h => by
  obtain ⟨k, rfl⟩ := count_mem h; clear h; revert k; decide
theorem rdAlign : Statement .rdAlign := fun _ => by decide
theorem clearHist : Statement .clearHist := fun _ => by decide
theorem scanSym (s : Byte) : Statement (.scanSym s) := fun _ => by revert s; decide
theorem scanBuf : Statement .scanBuf := fun _ => by decide
theorem setBin (s : Byte) : Statement (.setBin s) := fun _ => by revert s; decide
theorem makeTable : Statement .makeTable := fun _ => by decide
theorem buildTree : Statement .buildTree := fun _ => by decide
theorem assignCodes : Statement .assignCodes := fun _ => by decide
theorem writeCode (s : Byte) : Statement (.writeCode s) := fun _ => by revert s; decide
theorem decodeSym : Statement .decodeSym := fun _ => by decide

end Sys2Proof.Laws.RoundTrip
end

