-- ==== Sys2Proof/Tests/Slice0.lean ====
section
/-! SUPPORT. Tests of the model, their expected values from 95_test_vectors.md (the part is named at each group), and
for every statement with hypotheses a witness that meets them. -/

namespace Sys2Proof.Tests

open Sys2Proof Sys2Proof.Machine

/-! ### Helpers -/

/-- The state a result ends in, if it ends in one. -/
def after : Result → Option State
  | .next t => some t
  | _ => none

/-- Reset of the default instance with some parameters changed. -/
def resetCnt (n : Nat) : State := State.resetOf { Config.default with cntW := n }
def resetLsb : State := State.resetOf { Config.default with bitOrder := .lsbFirst }
def resetObuf (n : Nat) : State := State.resetOf { Config.default with obufSize := n }

/-- B4 5A as the input stream. -/
def inB45A (s : State) : State := { s with ibuf := [(0, 0xB4), (1, 0x5A)], inLen := 2 }

/-- An all-zero histogram but for the bins of `f`. -/
def scanned (w : Nat) (f : Nat → Word) (total : Word) : State :=
  { resetCnt w with hist := Cells.fill nsym f, total := total, histValid := true }

/-- The tree of Scenario 1 as 95_test_vectors.md 1.1 lists it. -/
def scenario1 : State :=
  { State.reset with
    histValid := true, tableValid := true, treeValid := true, nsyms := 3, nnodes := 5, root := 4
    ftSym := [(0, 0x43), (1, 0x42), (2, 0x41)], ftCnt := [(0, 2), (1, 3), (2, 5)]
    nodeInfo := [(0, 0x810FFFFF), (1, 0x810BFFFF), (2, 0x8107FFFF), (3, 0x200), (4, 0x602)]
    nodeW := [(0, 2), (1, 3), (2, 5), (3, 5), (4, 10)] }

/-- A single-leaf tree for 0x5A with the input "00100000" (95_test_vectors.md 2.9). -/
def leaf5A : State :=
  { State.reset with
    histValid := true, tableValid := true, treeValid := true, nsyms := 1, nnodes := 1, root := 0
    nodeInfo := [(0, 0x816BFFFF)], ibuf := [(0, 0x20)], inLen := 1 }

/-! ### Well-formedness: the ill-formed commands are refused -/

theorem test_wf_writeBits_zero : (Instr.writeBits 0).wf = false := by decide
theorem test_wf_writeBits_above : (Instr.writeBits 33).wf = false := by decide
theorem test_wf_readBits_zero : (Instr.readBits 0).wf = false := by decide
theorem test_wf_readBits_above : (Instr.readBits 33).wf = false := by decide
theorem test_wf_bounds : (Instr.writeBits 1).wf = true ∧ (Instr.readBits 32).wf = true := by decide

/-! ### Decoding (2.1), the words bit by bit from the formats of 30_encoding.md R122 -/

theorem test_decode_nop : decode 0x00000000 = .ok .nop := by rfl
theorem test_decode_wrReset : decode 0x00000010 = .ok .wrReset := by rfl
theorem test_decode_writeBit :
    decode 0x00000011 = .ok (.writeBit false) ∧ decode 0x00000111 = .ok (.writeBit true) := ⟨rfl, rfl⟩
theorem test_decode_writeBits : decode 0x00000012 = .ok (.writeBits 1) ∧ decode 0x00040012 = .ok (.writeBits 5)
    ∧ decode 0x000F0012 = .ok (.writeBits 16) ∧ decode 0x001F0012 = .ok (.writeBits 32) := ⟨rfl, rfl, rfl, rfl⟩
theorem test_decode_flush : decode 0x00000013 = .ok .flush := by rfl
theorem test_decode_close : decode 0x00000014 = .ok .close := by rfl
theorem test_decode_rdReset : decode 0x00000018 = .ok .rdReset := by rfl
theorem test_decode_readBits : decode 0x00020019 = .ok (.readBits 3) ∧ decode 0x000B0019 = .ok (.readBits 12)
    ∧ decode 0x001F0019 = .ok (.readBits 32) := ⟨rfl, rfl, rfl⟩
theorem test_decode_rdAlign : decode 0x0000001A = .ok .rdAlign := by rfl
theorem test_decode_clearHist : decode 0x00000020 = .ok .clearHist := by rfl
theorem test_decode_scanSym :
    decode 0x00004121 = .ok (.scanSym 0x41) ∧ decode 0x0000FF21 = .ok (.scanSym 0xFF) := ⟨rfl, rfl⟩
theorem test_decode_scanBuf : decode 0x00000022 = .ok .scanBuf := by rfl
theorem test_decode_setBin : decode 0x00004123 = .ok (.setBin 0x41) := by rfl
theorem test_decode_makeTable : decode 0x00000024 = .ok .makeTable := by rfl
theorem test_decode_buildTree : decode 0x00000030 = .ok .buildTree := by rfl
theorem test_decode_assignCodes : decode 0x00000040 = .ok .assignCodes := by rfl
theorem test_decode_writeCode : decode 0x00004150 = .ok (.writeCode 0x41) := by rfl
theorem test_decode_decodeSym : decode 0x00000051 = .ok .decodeSym := by rfl

theorem test_decode_unassigned : decode 0x00000001 = .error (.unassignedOpcode 0x01)
    ∧ decode 0x000000FF = .error (.unassignedOpcode 0xFF) := ⟨rfl, rfl⟩
theorem test_decode_unused : decode 0x00000100 = .error (.nonzeroUnusedField 0x00)
    ∧ decode 0x00000211 = .error (.nonzeroUnusedField 0x11) ∧ decode 0x00000119 = .error (.nonzeroUnusedField 0x19)
    ∧ decode 0x00010021 = .error (.nonzeroUnusedField 0x21) := ⟨rfl, rfl, rfl, rfl⟩
theorem test_decode_reserved : decode 0x00200012 = .error (.nonzeroReserved 1)
    ∧ decode 0x80000000 = .error (.nonzeroReserved 0x400) := ⟨rfl, rfl⟩
theorem test_decodeTableWord : decodeTableWord 32 0x00040012 = some (.writeBits 5)
    ∧ decodeTableWord 32 0x00000001 = none := ⟨rfl, rfl⟩

/-! ### One step from reset (2.1, 2.2) -/

theorem test_step_nop : (after (step (State.reset.withFetchWord 32 0))).map statusWord = some 0 := by decide
theorem test_step_illegal :
    (after (step (State.reset.withFetchWord 32 0x00000211))).map (fun t => (statusWord t, t.errCmd))
      = some (0x00000102, 0x00000211) := by decide
theorem test_step_clearHist :
    (after (step (State.reset.withFetchWord 32 0x20))).map (fun t => (statusWord t, t.total)) = some (0x8, 0) := by
  decide
theorem test_step_idle : step State.reset = .next State.reset := by rfl

/-! ### Writer (2.4) -/

theorem test_writeBits_msb :
    (after (exec (.writeBits 5) { State.reset with arg := 0x16 })).map (fun t => (t.wrNbits, t.wrAcc, t.outBytes))
      = some (5, 0xB0, 0) := by decide
theorem test_writeBits_lsb_crosses :
    (after (exec (.writeBits 9) { resetLsb with arg := 0x1FF, wrNbits := 5, wrAcc := 0x0D })).map
      (fun t => (t.obuf, t.outBytes, t.wrNbits, t.wrAcc)) = some ([(0, 0xED)], 1, 6, 0x3F) := by decide
theorem test_writeBit_closed :
    (after (exec (.writeBit true) { State.reset with wrClosed := true })).map (fun t => (statusWord t, t.errCmd))
      = some (0x00000782, 0x00000111) := by decide
theorem test_writeBit_full :
    (after (exec (.writeBit true) { resetObuf 1 with outBytes := 1, obuf := [(0, 0xA5)], wrNbits := 7 })).map
      (fun t => (statusWord t, t.wrNbits)) = some (0x00000602, 7) := by decide
theorem test_flush :
    (after (exec .flush { State.reset with
      obuf := [(0, 0xB7)], outBytes := 1, wrNbits := 6, wrAcc := 0xFC })).map
      (fun t => (t.obuf, t.outBytes, t.wrNbits, t.wrAcc)) = some ([(0, 0xB7), (1, 0xFC)], 2, 0, 0) := by decide
theorem test_flush_boundary :
    exec .flush { State.reset with obuf := [(0, 0xB7)], outBytes := 1 }
      = .next { State.reset with obuf := [(0, 0xB7)], outBytes := 1 } := by rfl
theorem test_close :
    (after (exec .close { State.reset with wrNbits := 1, wrAcc := 0x80 })).map
      (fun t => (t.obuf, t.outBytes, t.wrNbits, statusWord t)) = some ([(0, 0x80)], 1, 0, 0x80) := by decide
theorem test_close_full :
    (after (exec .close { resetObuf 1 with
      obuf := [(0, 0xA5)], outBytes := 1, wrNbits := 2, wrAcc := 0xC0 })).map
      (fun t => (statusWord t, t.wrNbits, t.wrAcc)) = some (0x00000602, 2, 0xC0) := by decide
theorem test_wrReset :
    (after (exec .wrReset { State.reset with obuf := [(0, 0x80)], outBytes := 1, wrClosed := true })).map
      (fun t => (t.outBytes, statusWord t)) = some (0, 0) := by decide

/-! ### Reader (2.5) -/

theorem test_readBits_msb :
    (after (exec (.readBits 5) { inB45A State.reset with rdPos := 3 })).map (fun t => (t.result, t.rdPos))
      = some (0x14, 8) := by decide
theorem test_readBits_lsb :
    (after (exec (.readBits 5) { inB45A resetLsb with rdPos := 3 })).map (fun t => (t.result, t.rdPos))
      = some (0xD, 8) := by decide
theorem test_rdAlign :
    (after (exec .rdAlign { inB45A State.reset with rdPos := 3 })).map (fun t => t.rdPos) = some 8 := by decide
theorem test_rdReset :
    (after (exec .rdReset { inB45A State.reset with rdPos := 12 })).map (fun t => t.rdPos) = some 0 := by decide

/-! ### Frequency scanner (2.6) -/

theorem test_scanSym_not_ready :
    (after (exec (.scanSym 0x41) State.reset)).map (fun t => (statusWord t, t.errCmd))
      = some (0x00000302, 0x00004121) := by decide
theorem test_scanSym_counts :
    (after (exec (.scanSym 9) { scenario1 with hist := [(9, 1)], total := 10, codesValid := true })).map
      (fun t => (statusWord t, Cells.read t.hist 9, t.total)) = some (0x00000008, some 2, 11) := by decide
theorem test_scanBuf :
    (after (exec .scanBuf { scanned 3 (fun _ => 0) 0 with
      ibuf := [(0, 1), (1, 2), (2, 3), (3, 4), (4, 5)], inLen := 5 })).map
      (fun t => (t.total, Cells.read t.hist 1, Cells.read t.hist 5, Cells.read t.hist 6))
      = some (5, some 1, some 1, some 0) := by decide +kernel
theorem test_setBin_replaces :
    (after (exec (.setBin 1) { scanned 4 (fun k => if k = 1 then 10 else if k = 2 then 5 else 0) 15 with
      arg := 3 })).map (fun t => (t.total, Cells.read t.hist 1, Cells.read t.hist 2))
      = some (8, some 3, some 5) := by decide +kernel
theorem test_setBin_overflow :
    (after (exec (.setBin 2) { scanned 4 (fun k => if k = 1 then 10 else 0) 10 with arg := 6 })).map
      (fun t => (t.total, t.errcode)) = some (10, .countOverflow) := by decide +kernel
theorem test_makeTable_ties :
    (after (exec .makeTable
        (scanned 32 (fun k => if k = 9 then 1 else if k = 0 ∨ k = 2 ∨ k = 5 then 3 else 0) 10))).map
      (fun t => (t.ftSym.take 4, t.ftCnt.take 5, t.result))
      = some ([(0, 9), (1, 0), (2, 2), (3, 5)], [(0, 1), (1, 3), (2, 3), (3, 3), (4, 0)], 4) := by decide +kernel

/-! ### Tree and codes (1.1, 2.7, 2.8) -/

theorem test_buildTree_scenario1 :
    (after (exec .buildTree scenario1)).map (fun t => (t.nodeInfo.take 6, t.nodeW.take 6, t.nnodes, t.root))
      = some (scenario1.nodeInfo ++ [(5, 0)], scenario1.nodeW ++ [(5, 0)], 5, 4) := by decide +kernel
theorem test_buildTree_empty :
    (after (exec .buildTree { scenario1 with nsyms := 0, treeValid := false })).map
      (fun t => (t.nnodes, t.root, statusWord t)) = some (0, 0x1FF, 0x38) := by decide +kernel
theorem test_assignCodes_scenario1 :
    (after (exec .assignCodes scenario1)).map (fun t =>
      ([0x41, 0x42, 0x43].map fun c => (Cells.read t.codeLen c, Cells.read t.codeBits (8 * c))))
      = some [(some 1, some 0), (some 2, some 0xC0000000), (some 2, some 0x80000000)] := by decide +kernel
theorem test_assignCodes_single :
    (after (exec .assignCodes leaf5A)).map (fun t => (Cells.read t.codeLen 0x5A, Cells.read t.codeBits (8 * 0x5A)))
      = some (some 1, some 0) := by decide +kernel

/-! ### Payload (2.9) -/

theorem test_writeCode :
    (after (exec (.writeCode 0x42) { scenario1 with
      codesValid := true, codeLen := [(0x42, 2)], codeBits := [(8 * 0x42, 0xC0000000)] })).map
      (fun t => (t.wrAcc, t.wrNbits)) = some (0xC0, 2) := by decide
theorem test_writeCode_unknown :
    (after (exec (.writeCode 0x43) { scenario1 with codesValid := true, codeLen := [(0x43, 0)] })).map
      (fun t => (statusWord t, t.errCmd)) = some (0x0000047A, 0x00004350) := by decide
theorem test_decodeSym :
    (after (exec .decodeSym { scenario1 with ibuf := [(0, 0xFF)], inLen := 1 })).map (fun t => (t.result, t.rdPos))
      = some (0x42, 2) := by decide
theorem test_decodeSym_truncated :
    (after (exec .decodeSym { scenario1 with ibuf := [(0, 0xFF)], inLen := 1, rdPos := 7 })).map
      (fun t => (statusWord t, t.rdPos, t.errCmd)) = some (0x0000053A, 7, 0x00000051) := by decide
theorem test_decodeSym_badCode :
    (after (exec .decodeSym { leaf5A with rdPos := 2 })).map (fun t => (t.errcode, t.rdPos))
      = some (.badCode, 2) := by decide

/-! ### The bus (2.2, 2.3) -/

theorem test_bus_reads :
    (access State.reset (.read 4 0x0000)).reply = some ⟨.ok, 0x48554631⟩
      ∧ (access State.reset (.read 4 0x0004)).reply = some ⟨.ok, 0x20⟩
      ∧ (access State.reset (.read 4 0x0030)).reply = some ⟨.ok, 0x1FF⟩
      ∧ (access State.reset (.read 4 0x0010)).reply = some ⟨.ok, 0⟩ := by decide
theorem test_bus_errors :
    (access State.reset (.read 4 0x0048)).reply = some ⟨.busErr, 0⟩
      ∧ (access State.reset (.read 4 0x0002)).reply = some ⟨.busErr, 0⟩
      ∧ (access State.reset (.read 1 0x0014)).reply = some ⟨.busErr, 0⟩
      ∧ (access State.reset (.read 4 0x27FC)).reply = some ⟨.busErr, 0⟩
      ∧ (access (resetObuf 16) (.read 4 0xC040)).reply = some ⟨.busErr, 0⟩ := by decide
theorem test_bus_ibuf : (access State.reset (.write 4 0x8000 0x1234)).ibuf = [(0, 0x34)] := by decide
theorem test_bus_inLen_clamps : (access State.reset (.write 4 0x0040 5000)).inLen = 4096 := by decide
theorem test_bus_status :
    statusWord (access { State.reset with err := true, errcode := .writeClosed, drop := true, wrClosed := true }
      (.write 4 0x0014 2)) = 0x84 := by decide
theorem test_bus_drop :
    statusWord (access { State.reset with err := true, errcode := .writeClosed, wrClosed := true }
      (.write 4 0x0010 0)) = 0x786 := by decide

/-! ### States with every validity flag set, for the witnesses -/

/-- What the arrays of a state hold, as functions of the index. -/
structure Contents where
  hist : Nat → Word
  ftSym : Nat → Byte
  ftCnt : Nat → Word
  nodeInfo : Nat → Word
  nodeW : Nat → Word
  codeLen : Nat → Byte
  codeBits : Nat → Word

/-- The state with those contents over n symbols, everything valid. -/
def built (w : Nat) (x : Contents) (total : Word) (n : Nat) : State :=
  { scanned w x.hist total with
    tableValid := true, treeValid := true, codesValid := true, nsyms := BitVec.ofNat 9 n
    nnodes := BitVec.ofNat 10 (2 * n - 1), root := BitVec.ofNat 9 (2 * n - 2)
    ftSym := Cells.fill nsym x.ftSym, ftCnt := Cells.fill nsym x.ftCnt
    nodeInfo := Cells.fill maxNodes x.nodeInfo, nodeW := Cells.fill maxNodes x.nodeW
    codeLen := Cells.fill nsym x.codeLen, codeBits := Cells.fill (8 * nsym) x.codeBits }

variable {w n : Nat} {x : Contents} {total : Word}

theorem histCount_built {k : Nat} (h : k < nsym) : histCount (built w x total n) k = (x.hist k).toNat := by
  simp [histCount, countCell, built, scanned, Cells.read_fill, h]
theorem ftSymAt_built {k : Nat} (h : k < nsym) : ftSymAt (built w x total n) k = x.ftSym k := by
  simp [ftSymAt, byteCell, built, Cells.read_fill, h]
theorem ftCntAt_built {k : Nat} (h : k < nsym) : ftCntAt (built w x total n) k = (x.ftCnt k).toNat := by
  simp [ftCntAt, countCell, built, Cells.read_fill, h]
theorem nodeInfoAt_built {k : Nat} (h : k < maxNodes) : nodeInfoAt (built w x total n) k = x.nodeInfo k := by
  simp [nodeInfoAt, wordCell, built, Cells.read_fill, h]
theorem nodeWeight_built {k : Nat} (h : k < maxNodes) :
    nodeWeight (built w x total n) k = (x.nodeW k).toNat := by
  simp [nodeWeight, countCell, built, Cells.read_fill, h]
theorem codeLength_built (c : Byte) : codeLength (built w x total n) c = (x.codeLen c.toNat).toNat := by
  have : c.toNat < nsym := c.isLt
  simp [codeLength, byteCell, built, Cells.read_fill, this]
theorem codeBit_built (c : Byte) {k : Nat} (h : k < 256) :
    codeBit (built w x total n) c k = (x.codeBits (8 * c.toNat + k / 32)).getLsbD (31 - k % 32) := by
  have h1 : c.toNat < 256 := c.isLt
  have : 8 * c.toNat + k / 32 < 8 * nsym := by unfold nsym; omega
  simp [codeBit, wordCell, built, Cells.read_fill, this]

theorem histOk_built (h2 : ((List.range nsym).map fun k => (x.hist k).toNat).sum = total.toNat)
    (h3 : total.toNat ≤ 2 ^ w - 1) : HistOk (built w x total n) := by
  refine ⟨fun k hk => ?_, ?_, h3⟩
  · simp [built, scanned, Cells.read_fill, hk]
  · rw [← h2.trans (show total.toNat = (built w x total n).total.toNat from rfl)]
    exact congrArg List.sum (List.map_congr_left fun k hk => histCount_built (by simpa using hk))

/-- What `TableOk` says of contents. -/
def tableCheck (x : Contents) (total : Word) (n : Nat) : Bool :=
  ((List.range n).all fun i => decide (1 ≤ (x.ftCnt i).toNat) && x.ftCnt i == x.hist (x.ftSym i).toNat)
    && ((List.range nsym).all fun c => x.hist c == 0 || (List.range n).any fun i => (x.ftSym i).toNat == c)
    && ((List.range n).all fun j => (List.range j).all fun i => decide ((x.ftCnt i).toNat < (x.ftCnt j).toNat)
        || (x.ftCnt i == x.ftCnt j && decide ((x.ftSym i).toNat < (x.ftSym j).toNat)))
    && (((List.range n).map fun i => (x.ftCnt i).toNat).sum == total.toNat)
    && ((List.range nsym).all fun i => decide (i < n) || (x.ftSym i == 0 && x.ftCnt i == 0))

theorem tableOk_built (hn : n ≤ nsym) (h : tableCheck x total n = true) : TableOk (built w x total n) := by
  have hn' : (built w x total n).nsyms.toNat = n := by
    show (BitVec.ofNat 9 n).toNat = n
    rw [BitVec.toNat_ofNat]; exact Nat.mod_eq_of_lt (by unfold nsym at hn; omega)
  simp only [tableCheck, Bool.and_eq_true, List.all_eq_true, List.mem_range, Bool.or_eq_true, decide_eq_true_eq,
    beq_iff_eq, List.any_eq_true] at h
  obtain ⟨⟨⟨⟨h1, h2⟩, h3⟩, h4⟩, h5⟩ := h
  rw [TableOk, hn']
  refine ⟨hn, fun i hi => ?_, fun i hi => ?_, fun c hc => ?_, fun j hj i hi => ?_, ?_, fun i hi hni => ?_⟩
  · simp [built, Cells.read_fill, hi]
  · rw [ftSymAt_built (by omega), ftCntAt_built (by omega), histCount_built (x.ftSym i).isLt, ← (h1 i hi).2]
    exact ⟨(h1 i hi).1, rfl⟩
  · rw [histCount_built c.isLt] at hc
    obtain h0 | ⟨i, hi, he⟩ := h2 c.toNat c.isLt
    · rw [h0] at hc; exact absurd hc (by decide)
    · exact ⟨i, hi, by rw [ftSymAt_built (by omega)]; exact BitVec.eq_of_toNat_eq he⟩
  · rw [ftSymAt_built (by omega), ftCntAt_built (by omega), ftSymAt_built (by omega), ftCntAt_built (by omega)]
    exact (h3 j hj i hi).imp_right fun h => ⟨congrArg BitVec.toNat h.1, h.2⟩
  · rw [show (built w x total n).total.toNat = total.toNat from rfl, ← h4]
    exact congrArg List.sum (List.map_congr_left fun k hk =>
      ftCntAt_built (by simp only [List.mem_range] at hk; omega))
  · rw [ftSymAt_built hi, ftCntAt_built hi]
    obtain hi' | ⟨ha, hb⟩ := h5 i hi
    · omega
    · rw [ha, hb]; exact ⟨rfl, rfl⟩

/-- What `TreeOk` says of contents. -/
def treeCheck (x : Contents) (total : Word) (n : Nat) : Bool :=
  let left := fun j => infoLeft (x.nodeInfo j)
  let right := fun j => infoRight (x.nodeInfo j)
  ((List.range n).all fun i => x.nodeInfo i == packInfo true (x.ftSym i) nodeNone nodeNone && x.nodeW i == x.ftCnt i)
    && ((List.range (2 * n - 1)).all fun j => decide (j < n)
        || (x.nodeInfo j == packInfo false 0 (right j) (left j) && decide (left j < j) && decide (right j < j)
          && left j != right j && (x.nodeW j).toNat == (x.nodeW (left j)).toNat + (x.nodeW (right j)).toNat))
    && ((List.range (2 * n - 2)).all fun q => (List.range (2 * n - 1)).any fun j =>
        decide (n ≤ j) && (left j == q || right j == q)
          && (List.range (2 * n - 1)).all fun j' => decide (j' < n) || (left j' != q && right j' != q) || j' == j)
    && ((x.nodeW (2 * n - 2)).toNat == total.toNat)
    && ((List.range maxNodes).all fun j => decide (j < 2 * n - 1) || (x.nodeInfo j == 0 && x.nodeW j == 0))

theorem treeOk_built (h1n : 1 ≤ n) (hn : n ≤ nsym) (h : treeCheck x total n = true) :
    TreeOk (built w x total n) := by
  unfold nsym at hn
  have hn' : (built w x total n).nsyms.toNat = n := by
    show (BitVec.ofNat 9 n).toNat = n
    rw [BitVec.toNat_ofNat]; exact Nat.mod_eq_of_lt (by omega)
  have hnn : (built w x total n).nnodes.toNat = 2 * n - 1 := by
    show (BitVec.ofNat 10 (2 * n - 1)).toNat = 2 * n - 1
    rw [BitVec.toNat_ofNat]; exact Nat.mod_eq_of_lt (by omega)
  have hr : (built w x total n).root.toNat = 2 * n - 2 := by
    show (BitVec.ofNat 9 (2 * n - 2)).toNat = 2 * n - 2
    rw [BitVec.toNat_ofNat]; exact Nat.mod_eq_of_lt (by omega)
  have hm : maxNodes = 511 := rfl
  have hs : nsym = 256 := rfl
  simp only [treeCheck, Bool.and_eq_true, List.all_eq_true, List.mem_range, Bool.or_eq_true, decide_eq_true_eq,
    beq_iff_eq, List.any_eq_true, bne_iff_ne] at h
  obtain ⟨⟨⟨⟨h1, h2⟩, h3⟩, h4⟩, h5⟩ := h
  have hl : ∀ j, j < 2 * n - 1 → leftOf (built w x total n) j = infoLeft (x.nodeInfo j) := fun j hj => by
    rw [leftOf, nodeInfoAt_built (by omega)]
  have hri : ∀ j, j < 2 * n - 1 → rightOf (built w x total n) j = infoRight (x.nodeInfo j) := fun j hj => by
    rw [rightOf, nodeInfoAt_built (by omega)]
  rw [TreeOk, hn', hnn, hr]
  refine ⟨rfl, by rw [if_neg (by omega)], fun j hj => ?_, fun i hi => ?_, fun j hj hnj => ?_, fun q hq => ?_,
    fun _ => ?_, fun j hj hnj => ?_⟩
  · simp [built, Cells.read_fill, hj]
  · rw [nodeInfoAt_built (by omega), ftSymAt_built (by omega), nodeWeight_built (by omega),
      ftCntAt_built (by omega)]
    exact ⟨(h1 i hi).1, congrArg BitVec.toNat (h1 i hi).2⟩
  · obtain hj' | ⟨⟨⟨⟨a, b⟩, c⟩, d⟩, e⟩ := h2 j hj
    · omega
    · rw [hl j hj, hri j hj, nodeInfoAt_built (by omega), nodeWeight_built (by omega), nodeWeight_built (by omega),
        nodeWeight_built (by omega)]
      exact ⟨a, b, c, d, e⟩
  · obtain ⟨j, hj, ⟨hnj, hc⟩, hu⟩ := h3 q hq
    refine ⟨j, hj, hnj, by rw [hl j hj, hri j hj]; exact hc, fun j' hj' hnj' hc' => ?_⟩
    rw [hl j' hj', hri j' hj'] at hc'
    obtain (h | ⟨ha, hb⟩) | h := hu j' hj'
    · omega
    · exact absurd hc' (by simp [ha, hb])
    · exact h
  · rw [nodeWeight_built (by omega)]; exact h4
  · rw [nodeInfoAt_built hj, nodeWeight_built hj]
    obtain hj' | ⟨ha, hb⟩ := h5 j hj
    · omega
    · rw [ha, hb]; exact ⟨rfl, rfl⟩

/-- Codes of at most one bit: a zero word but for the first bit of the codes that have one. -/
theorem codesOk_built (h1n : 1 ≤ n) (hn : n ≤ nsym)
    (hlen : ∀ c : Byte, x.codeLen c.toNat = 0 ∨ x.codeLen c.toNat = 1)
    (hbits : ∀ k, k < 8 * nsym → x.codeBits k = 0 ∨ (x.codeBits k = 0x80000000 ∧ k % 8 = 0
      ∧ x.codeLen (k / 8) = 1))
    (hsome : ∀ c : Byte, x.codeLen c.toNat = 1 → ∃ i, i < n ∧ x.ftSym i = c)
    (hone : n = 1 → ∀ i, i < n → codeSeq (built w x total n) (x.ftSym i) = [false])
    (htwo : 2 ≤ n → ∀ i, i < n → follow (nodeInfoAt (built w x total n)) (built w x total n).root.toNat
      (codeSeq (built w x total n) (x.ftSym i)) = some i) :
    CodesOk (built w x total n) := by
  have hs : nsym = 256 := rfl
  have hn' : (built w x total n).nsyms.toNat = n := by
    show (BitVec.ofNat 9 n).toNat = n
    rw [BitVec.toNat_ofNat]; exact Nat.mod_eq_of_lt (by omega)
  rw [CodesOk, hn']
  refine ⟨fun k hk => ?_, fun k hk => ?_, fun i hi h => ?_, fun i hi h => ?_, fun c hc => ?_, fun c k hk hlk => ?_⟩
  · simp [built, Cells.read_fill, hk]
  · simp [built, Cells.read_fill, hk]
  · rw [ftSymAt_built (by omega)]; exact hone h i hi
  · rw [ftSymAt_built (by omega)]; exact htwo h i hi
  · rw [codeLength_built]
    obtain h | h := hlen c
    · rw [h]; rfl
    · obtain ⟨i, hi, he⟩ := hsome c h
      exact absurd (by rw [ftSymAt_built (by omega)]; exact he) (hc i hi)
  · rw [codeBit_built c hk]
    have hcl := c.isLt
    rw [codeLength_built] at hlk
    obtain h | ⟨h, h8, h1⟩ := hbits (8 * c.toNat + k / 32) (by omega)
    · rw [h]; exact BitVec.getLsbD_zero
    · rw [show (8 * c.toNat + k / 32) / 8 = c.toNat by omega] at h1
      rw [h1] at hlk
      have : 1 ≤ k := hlk
      rw [h, show (0x80000000 : Word) = BitVec.twoPow 32 31 by rfl, BitVec.getLsbD_twoPow]
      simp; omega

/-- The codes of "AAB" (95_test_vectors.md 2.8): table [('B',1), ('A',2)], 'B' = "0", 'A' = "1". -/
def aabContents : Contents where
  hist k := if k = 0x41 then 2 else if k = 0x42 then 1 else 0
  ftSym i := if i = 0 then 0x42 else if i = 1 then 0x41 else 0
  ftCnt i := if i = 0 then 1 else if i = 1 then 2 else 0
  nodeInfo j := if j = 0 then 0x810BFFFF else if j = 1 then 0x8107FFFF else if j = 2 then 0x200 else 0
  nodeW j := if j = 0 then 1 else if j = 1 then 2 else if j = 2 then 3 else 0
  codeLen c := if c = 0x41 ∨ c = 0x42 then 1 else 0
  codeBits k := if k = 8 * 0x41 then 0x80000000 else 0

/-- "AAB" scanned, its table, its tree and its codes, on an instance with CNT_W = w. -/
def aab (w : Nat) : State := built w aabContents 3 2

/-- One symbol, 'X', once: the single-leaf tree with the code "0" (95_test_vectors.md 2.8). -/
def oneXContents : Contents where
  hist k := if k = 0x58 then 1 else 0
  ftSym i := if i = 0 then 0x58 else 0
  ftCnt i := if i = 0 then 1 else 0
  nodeInfo j := if j = 0 then 0x8163FFFF else 0
  nodeW j := if j = 0 then 1 else 0
  codeLen c := if c = 0x58 then 1 else 0
  codeBits _ := 0

def oneX : State := built 32 oneXContents 1 1

theorem histOk_aab (hw : 3 ≤ 2 ^ w - 1) : HistOk (aab w) := histOk_built (by decide +kernel) hw
theorem tableOk_aab : TableOk (aab w) := tableOk_built (by decide) (by decide +kernel)
theorem histOk_oneX : HistOk oneX := histOk_built (by decide +kernel) (by decide +kernel)
theorem tableOk_oneX : TableOk oneX := tableOk_built (by decide) (by decide +kernel)

theorem treeOk_aab : TreeOk (aab w) := treeOk_built (by decide) (by decide) (by decide +kernel)
theorem treeOk_oneX : TreeOk oneX := treeOk_built (by decide) (by decide) (by decide +kernel)

theorem codeSeq_aab_A : codeSeq (aab w) 0x41 = [true] := by
  rw [codeSeq, aab, codeLength_built]
  show [codeBit _ _ 0] = _
  rw [codeBit_built _ (by decide)]; rfl
theorem codeSeq_aab_B : codeSeq (aab w) 0x42 = [false] := by
  rw [codeSeq, aab, codeLength_built]
  show [codeBit _ _ 0] = _
  rw [codeBit_built _ (by decide)]; rfl
theorem codeSeq_oneX : codeSeq oneX 0x58 = [false] := by
  rw [codeSeq, oneX, codeLength_built]
  show [codeBit _ _ 0] = _
  rw [codeBit_built _ (by decide)]; rfl

theorem codesOk_aab : CodesOk (aab w) := by
  have hlen : ∀ c : Byte, aabContents.codeLen c.toNat = 0
      ∨ (aabContents.codeLen c.toNat = 1 ∧ (c.toNat = 0x41 ∨ c.toNat = 0x42)) := fun c => by
    by_cases h : c.toNat = 0x41 ∨ c.toNat = 0x42
    · exact .inr ⟨if_pos h, h⟩
    · exact .inl (if_neg h)
  refine codesOk_built (by decide) (by decide) (fun c => (hlen c).imp_right And.left) (fun k _ => ?_) (fun c hc => ?_)
    (fun h => absurd h (by decide)) fun _ i hi => ?_
  · by_cases h : k = 8 * 0x41
    · exact .inr ⟨if_pos h, by omega, by rw [h]; rfl⟩
    · exact .inl (if_neg h)
  · obtain h | ⟨-, h | h⟩ := hlen c
    · rw [h] at hc; exact absurd hc (by decide)
    · exact ⟨1, by decide, BitVec.eq_of_toNat_eq h.symm⟩
    · exact ⟨0, by decide, BitVec.eq_of_toNat_eq h.symm⟩
  have hr : (built w aabContents 3 2).root.toNat = 2 := rfl
  have h2 : nodeInfoAt (built w aabContents 3 2) 2 = 0x200 := nodeInfoAt_built (by decide)
  obtain rfl | rfl : i = 0 ∨ i = 1 := by omega
  · rw [show aabContents.ftSym 0 = 0x42 from rfl, show codeSeq (built w aabContents 3 2) 0x42 = [false] from
      codeSeq_aab_B, hr, follow, h2]; rfl
  · rw [show aabContents.ftSym 1 = 0x41 from rfl, show codeSeq (built w aabContents 3 2) 0x41 = [true] from
      codeSeq_aab_A, hr, follow, h2]; rfl
theorem codesOk_oneX : CodesOk oneX := by
  refine codesOk_built (by decide) (by decide) (fun c => ?_) (fun _ _ => .inl rfl) (fun c hc => ?_)
    (fun _ i hi => ?_) fun h => absurd h (by decide)
  · by_cases h : c.toNat = 0x58
    · exact .inr (if_pos h)
    · exact .inl (if_neg h)
  · by_cases h : c.toNat = 0x58
    · exact ⟨0, by decide, BitVec.eq_of_toNat_eq h.symm⟩
    · rw [show oneXContents.codeLen c.toNat = 0 from if_neg h] at hc; exact absurd hc (by decide)
  obtain rfl : i = 0 := by omega
  exact codeSeq_oneX

theorem codesInv_aab (h1 : (aab w).cfg.wf = true) (h2 : 3 ≤ 2 ^ w - 1) : CodesInv (aab w) :=
  ⟨⟨⟨h1, fun _ => rfl, fun _ => rfl, fun _ => rfl, fun _ => histOk_aab h2, fun _ => tableOk_aab⟩,
    fun _ => treeOk_aab⟩, fun _ => codesOk_aab⟩
theorem codesInv_aab2 : CodesInv (aab 2) := codesInv_aab rfl (by decide)
theorem codesInv_aab3 : CodesInv (aab 3) := codesInv_aab rfl (by decide)
theorem codesInv_oneX : CodesInv oneX :=
  ⟨⟨⟨rfl, fun _ => rfl, fun _ => rfl, fun _ => rfl, fun _ => histOk_oneX, fun _ => tableOk_oneX⟩,
    fun _ => treeOk_oneX⟩, fun _ => codesOk_oneX⟩


/-! ### Witnesses: the hypotheses of each statement, met together, each clause at a boundary of its range -/

theorem witness_DecodeReadsBackEncode : (Instr.writeBits 1).wf = true ∧ (Instr.readBits 32).wf = true := by decide

theorem witness_DecodedWordIsTheEncoding : decode 0x001F0019 = .ok (.readBits 32) := rfl

theorem witness_DecodeByMaskAndMatch :
    (⟨.fn, 0x00000012, fun c => .writeBits (countOf c)⟩ : OpRow) ∈ opTable
      ∧ (0x001F0012 : Word) &&& Format.mask .fn = 0x00000012
      ∧ ∀ r ∈ opTable, (0x00200012 : Word) &&& r.format.mask ≠ r.bits := by
  refine ⟨?_, by decide, by decide⟩
  iterate 3 apply List.Mem.tail
  exact .head _

theorem witness_IllegalWordsRaiseIllegalCmd :
    (∀ r ∈ opTable, r.hits 0x000000FF = false) ∧ (∀ r ∈ opTable, fieldOp r.bits ≠ fieldOp 0x00000052)
      ∧ (∃ r ∈ opTable, fieldOp 0x00000100 = fieldOp r.bits ∧ (0x00000100 : Word) &&& r.format.mask ≠ r.bits)
      ∧ fieldRsv 0x00200012 ≠ 0 := by decide

theorem witness_EngineStepRunsThePendingCommand :
    (∃ u, engineNext (State.reset.withFetchWord 32 0x51) = some u ∧ u.inReset = false
        ∧ u.pending = some 0x51 ∧ decode 0x51 = .ok .decodeSym)
      ∧ (∃ u, engineNext (State.reset.withFetchWord 32 0x52) = some u ∧ u.inReset = false
        ∧ u.pending = some 0x52 ∧ decode 0x52 = .error (.unassignedOpcode 0x52))
      ∧ ∃ u, engineNext State.reset = some u ∧ u.inReset = false ∧ u.pending = none :=
  ⟨⟨_, rfl, rfl, rfl, rfl⟩, ⟨_, rfl, rfl, rfl, rfl⟩, ⟨_, rfl, rfl, rfl⟩⟩

theorem witness_EngineStepEndsTheCommand :
    ∃ u t, engineNext (State.reset.withFetchWord 32 0x52) = some u ∧ u.inReset = false
      ∧ step (State.reset.withFetchWord 32 0x52) = .next t := ⟨_, _, rfl, rfl, rfl⟩

theorem witness_HostTurnMakesTheAccess :
    (∃ s : State, s.turns = [.host (.read 4 0)] ∧ s.inReset = false)
      ∧ ∃ s : State, s.turns = [.host (.read 4 0)] ∧ s.inReset = true :=
  ⟨⟨{ State.reset with turns := [.host (.read 4 0)] }, rfl, rfl⟩,
    ⟨{ State.reset with turns := [.host (.read 4 0)], inReset := true }, rfl, rfl⟩⟩

theorem witness_FailedCommandChangesOnlyTheLatch :
    ∃ t, State.reset.err = false ∧ runCommand 0x24 State.reset = .next t ∧ t.err = true := ⟨_, rfl, rfl, rfl⟩

theorem witness_CommandCompletesOrRaises :
    (∃ t, exec .clearHist State.reset = .next t ∧ t.err = false)
      ∧ ∃ t, exec .makeTable State.reset = .next t ∧ t.err = true := ⟨⟨_, rfl, rfl⟩, ⟨_, rfl, rfl⟩⟩

theorem witness_NotReadyWithoutTheFlag :
    State.reset.histValid = false ∧ State.reset.tableValid = false ∧ State.reset.treeValid = false
      ∧ State.reset.wrClosed = false ∧ State.reset.codesValid = false
      ∧ ({ scenario1 with nnodes := 0 } : State).treeValid = true
      ∧ ({ scenario1 with nnodes := 0 } : State).nnodes = 0 := by decide

theorem witness_OnlyTheNamedCommandsWrite :
    (∃ t, exec .clearHist { State.reset with total := 3 } = .next t ∧ t.total ≠ 3)
      ∧ (∃ t, exec .makeTable { scanned 32 (fun _ => 0) 0 with nsyms := 2 } = .next t ∧ t.nsyms ≠ 2)
      ∧ (∃ t, exec .buildTree { scenario1 with nsyms := 0 } = .next t ∧ t.root ≠ 4)
      ∧ (∃ t, exec .assignCodes leaf5A = .next t ∧ t.codeLen ≠ [])
      ∧ (∃ t, exec (.readBits 5) (inB45A State.reset) = .next t ∧ t.result ≠ 0 ∧ t.rdPos ≠ 0)
      ∧ ∃ t, exec (.writeBits 32) { State.reset with arg := 0xDEADBEEF } = .next t ∧ t.obuf ≠ [] :=
  ⟨⟨_, rfl, by decide⟩, ⟨_, rfl, by decide +kernel⟩, ⟨_, rfl, by decide +kernel⟩,
    ⟨_, rfl, by simp [Cells.fill, nsym]⟩, ⟨_, rfl, by decide, by decide⟩, ⟨_, rfl, by decide +kernel⟩⟩

theorem witness_FlagSettersAndClearers :
    (∃ t, exec .clearHist State.reset = .next t ∧ State.reset.histValid = false ∧ t.histValid = true)
      ∧ (∃ t, exec .nop oneX = .next t ∧ oneX.histValid = true)
      ∧ (∃ t, exec .makeTable (scanned 32 (fun _ => 0) 0) = .next t ∧ t.tableValid = true)
      ∧ (∃ t, exec .clearHist oneX = .next t ∧ oneX.tableValid = true ∧ t.tableValid = false
        ∧ oneX.treeValid = true ∧ t.treeValid = false ∧ oneX.codesValid = true ∧ t.codesValid = false)
      ∧ (∃ t, exec .buildTree { scenario1 with treeValid := false } = .next t ∧ t.treeValid = true)
      ∧ (∃ t, exec .assignCodes leaf5A = .next t ∧ leaf5A.codesValid = false ∧ t.codesValid = true)
      ∧ (∃ t, exec .close State.reset = .next t ∧ State.reset.wrClosed = false ∧ t.wrClosed = true)
      ∧ ∃ t, exec .wrReset { State.reset with wrClosed := true } = .next t ∧ t.wrClosed = false :=
  ⟨⟨_, rfl, rfl, rfl⟩, ⟨_, rfl, rfl⟩, ⟨_, rfl, rfl⟩, ⟨_, rfl, rfl, rfl, rfl, rfl, rfl, rfl⟩, ⟨_, rfl, rfl⟩,
    ⟨_, rfl, rfl, rfl⟩, ⟨_, rfl, rfl, rfl⟩, ⟨_, rfl, rfl⟩⟩

theorem witness_HistWritersInvalidateDerivations :
    ∃ t, exec .clearHist State.reset = .next t ∧ ∀ e, t ≠ raise e (encode .clearHist) State.reset :=
  ⟨_, rfl, fun e h => absurd (congrArg State.err h) (by simp [raise, histChanged, State.reset, State.resetOf])⟩

/-- A full output buffer of one byte, with a partial byte of k bits that are 0. -/
def full1 (k : BitVec 3) : State := { resetObuf 1 with obuf := [(0, 0xA5)], outBytes := 1, wrNbits := k }

/-- One free byte, with a partial byte of 7 bits that are 0. -/
def free1 : State := { resetObuf 1 with wrNbits := 7 }

theorem witness_WriteBitsAppendToTheStream :
    (full1 7).cfg.wf = true ∧ (Instr.writeBits 1).wf = true ∧ (Instr.writeBits 32).wf = true
      ∧ [((full1 7).arg.getLsbD 0)].length = 1 ∧ (full1 7).wrClosed = false
      ∧ (full1 7).cfg.obufSize < (full1 7).outBytes.toNat + ((full1 7).wrNbits.toNat + 1) / 8
      ∧ (full1 6).outBytes.toNat + ((full1 6).wrNbits.toNat + 1) / 8 ≤ (full1 6).cfg.obufSize
      ∧ free1.outBytes.toNat + (free1.wrNbits.toNat + 1) / 8 = free1.cfg.obufSize
      ∧ ({ full1 0 with wrClosed := true } : State).wrClosed = true := by decide

theorem witness_WriteBitsAppendToTheStream_bits (s : State) (n : Nat) :
    (argBits s.arg n).length = n
      ∧ ∀ k, k < n → (argBits s.arg n)[k]? = some (s.arg.getLsbD (n - 1 - k)) :=
  ⟨by simp [argBits], fun k hk => by simp [argBits, hk]⟩

/-- Codes of "AAB" with a partial byte of 7 bits, and an output buffer of `size` bytes. -/
def aabWriter (size : Nat) (closed : Bool) : State :=
  { aab 2 with cfg := { Config.default with cntW := 2, obufSize := size }, wrNbits := 7, outBytes := 1
               obuf := [(0, 0xA5)], wrClosed := closed }

theorem codeLength_aab_A : codeLength (aab 2) 0x41 = 1 := codeLength_built _
theorem codeLength_aab_C : codeLength (aab 2) 0x43 = 0 := codeLength_built _
theorem codeLength_aabWriter (z : Nat) (b : Bool) (c : Byte) :
    codeLength (aabWriter z b) c = codeLength (aab 2) c := rfl

theorem witness_WriteCodeAppendsTheCode :
    (aabWriter 1 false).cfg.wf = true ∧ (aabWriter 2 false).cfg.wf = true
      ∧ (aabWriter 1 true).wrClosed = true
      ∧ ({ aabWriter 1 false with codesValid := false } : State).codesValid = false
      ∧ (aabWriter 1 false).wrClosed = false ∧ (aabWriter 1 false).codesValid = true
      ∧ codeLength (aabWriter 1 false) 0x43 = 0 ∧ codeLength (aabWriter 1 false) 0x41 ≠ 0
      ∧ (aabWriter 1 false).cfg.obufSize < (aabWriter 1 false).outBytes.toNat
          + ((aabWriter 1 false).wrNbits.toNat + codeLength (aabWriter 1 false) 0x41) / 8
      ∧ (aabWriter 2 false).outBytes.toNat
          + ((aabWriter 2 false).wrNbits.toNat + codeLength (aabWriter 2 false) 0x41) / 8
        ≤ (aabWriter 2 false).cfg.obufSize := by
  rw [codeLength_aabWriter, codeLength_aabWriter, codeLength_aabWriter, codeLength_aab_A, codeLength_aab_C]
  decide

theorem witness_WriteCodeAppendsTheCode_bits (s : State) (c : Byte) :
    (codeSeq s c).length = codeLength s c
      ∧ ∀ k, k < codeLength s c →
        (codeSeq s c)[k]? = some ((wordCell s s.codeBits (8 * c.toNat + k / 32)).getLsbD (31 - k % 32)) :=
  ⟨by simp [codeSeq], fun k hk => by simp [codeSeq, hk, codeBit]⟩

theorem writerInv_full1 (k : BitVec 3) : WriterInv (full1 k) := by
  refine ⟨by rfl, Nat.le_refl 1, fun j _ _ => ?_, nofun, fun k hk => ?_⟩
  · exact BitVec.getLsbD_zero
  · have h1 : k < 1 := hk
    obtain rfl : k = 0 := by omega
    exact Option.some_ne_none 0xA5

theorem writerInv_free1 : WriterInv free1 :=
  ⟨by rfl, by decide, fun _ _ _ => BitVec.getLsbD_zero, fun h => absurd h (by decide),
    fun k hk => absurd hk (Nat.not_lt_zero k)⟩

theorem witness_FlushPadsWithZeroBits :
    (WriterInv (full1 0) ∧ (full1 0).wrNbits = 0)
      ∧ (WriterInv (full1 1) ∧ (full1 1).wrNbits ≠ 0 ∧ (full1 1).cfg.obufSize < (full1 1).outBytes.toNat + 1)
      ∧ (WriterInv free1 ∧ free1.wrNbits ≠ 0 ∧ free1.outBytes.toNat + 1 ≤ free1.cfg.obufSize) :=
  ⟨⟨writerInv_full1 0, by decide⟩, ⟨writerInv_full1 1, by decide, by decide⟩,
    ⟨writerInv_free1, by decide, by decide⟩⟩

theorem witness_CloseFlushesAndCloses :
    (WriterInv { State.reset with wrClosed := true })
      ∧ (WriterInv (full1 1) ∧ (full1 1).wrClosed = false ∧ (full1 1).wrNbits ≠ 0
        ∧ (full1 1).cfg.obufSize < (full1 1).outBytes.toNat + 1)
      ∧ (WriterInv (full1 0) ∧ (full1 0).wrClosed = false ∧ (full1 0).wrNbits = 0)
      ∧ (WriterInv free1 ∧ free1.wrClosed = false ∧ free1.outBytes.toNat + 1 ≤ free1.cfg.obufSize) :=
  ⟨⟨by rfl, by decide, fun _ _ _ => BitVec.getLsbD_zero, fun _ => rfl, fun k hk => absurd hk (Nat.not_lt_zero k)⟩,
    ⟨writerInv_full1 1, by decide, by decide, by decide⟩, ⟨writerInv_full1 0, by decide, by decide⟩,
    ⟨writerInv_free1, by decide, by decide⟩⟩

theorem witness_ReadBitsTakesTheNextBits :
    (Instr.readBits 16).wf = true ∧ (Instr.readBits 17).wf = true
      ∧ (inB45A State.reset).rdPos.toNat + 16 ≤ avail (inB45A State.reset)
      ∧ avail (inB45A State.reset) < (inB45A State.reset).rdPos.toNat + 17 := by decide

theorem readerInv_reset : ReaderInv State.reset := by unfold ReaderInv; decide

theorem witness_ReadAlignRoundsUp :
    (ReaderInv { inB45A State.reset with rdPos := 9 } ∧ (9 : BitVec 16).toNat ≤ 8 * (inB45A State.reset).inLen.toNat)
      ∧ ReaderInv { State.reset with rdPos := 32768 } := by unfold ReaderInv; decide

theorem witness_ReaderSeesWhatTheWriterWrote :
    WriterInv (full1 0) ∧ (full1 0).outBytes.toNat ≤ (full1 0).cfg.ibufSize ∧ 7 < 8 * (full1 0).outBytes.toNat :=
  ⟨writerInv_full1 0, by decide, by decide⟩

theorem tableInv_reset : TableInv State.reset :=
  ⟨by rfl, nofun, nofun, nofun, nofun, nofun⟩

theorem witness_ScanSymCountsOne :
    (TableInv State.reset ∧ State.reset.histValid = false)
      ∧ (TableInv (aab 2) ∧ (aab 2).histValid = true ∧ (aab 2).cfg.cmax < (aab 2).total.toNat + 1)
      ∧ (TableInv (aab 3) ∧ (aab 3).histValid = true ∧ (aab 3).total.toNat + 1 ≤ (aab 3).cfg.cmax) :=
  ⟨⟨tableInv_reset, rfl⟩, ⟨codesInv_aab2.1.1, rfl, by decide⟩, ⟨codesInv_aab3.1.1, rfl, by decide⟩⟩

/-- "AAB" counted, with an input of k bytes that are 0x43. -/
def aabInput (w k : Nat) : State :=
  { aab w with ibuf := Cells.fill k fun _ => 0x43, inLen := BitVec.ofNat 13 k }

/-- The validity chain says nothing of the inputs, ARG and PENDING. -/
theorem codesInv_inputs {s : State} (h : CodesInv s) (m : Memory) (l : BitVec 13) (a : Word) (p : Option Word)
    (r : Bool) (ts : List Turn) :
    CodesInv { s with ibuf := m, inLen := l, arg := a, pending := p, inReset := r, turns := ts } := h

theorem codesInv_aabInput (w k : Nat) (h : CodesInv (aab w)) : CodesInv (aabInput w k) :=
  codesInv_inputs h _ _ _ _ _ _

theorem witness_ScanBufCountsEveryByte :
    (TableInv State.reset ∧ State.reset.histValid = false)
      ∧ (TableInv (aabInput 3 5) ∧ (aabInput 3 5).histValid = true
        ∧ (aabInput 3 5).cfg.cmax < (aabInput 3 5).total.toNat + (aabInput 3 5).inLen.toNat)
      ∧ (TableInv (aabInput 3 4) ∧ (aabInput 3 4).histValid = true
        ∧ (aabInput 3 4).total.toNat + (aabInput 3 4).inLen.toNat ≤ (aabInput 3 4).cfg.cmax) :=
  ⟨⟨tableInv_reset, rfl⟩, ⟨(codesInv_aabInput 3 _ codesInv_aab3).1.1, rfl, by decide⟩, ⟨(codesInv_aabInput 3 _ codesInv_aab3).1.1, rfl, by decide⟩⟩

/-- "AAB" counted, with ARG. -/
def aabArg (w : Nat) (v : Word) : State := { aab w with arg := v }

theorem codesInv_aabArg (w : Nat) (v : Word) (h : CodesInv (aab w)) : CodesInv (aabArg w v) :=
  codesInv_inputs h _ _ _ _ _ _

theorem histCount_arg (s : State) (v : Word) (k : Nat) : histCount { s with arg := v } k = histCount s k := rfl

theorem histCount_aab (v : Word) : histCount (aabArg 2 v) (0x41 : Byte).toNat = 2 :=
  (histCount_arg (aab 2) v _).trans <| histCount_built (k := 0x41) (w := 2) (x := aabContents) (total := 3) (n := 2) (by decide)

theorem witness_SetBinReplacesTheCount :
    (TableInv State.reset ∧ State.reset.histValid = false)
      ∧ (TableInv (aabArg 2 4) ∧ (aabArg 2 4).histValid = true ∧ (aabArg 2 4).cfg.cmax < (aabArg 2 4).arg.toNat)
      ∧ (TableInv (aabArg 2 3) ∧ (aabArg 2 3).histValid = true ∧ (aabArg 2 3).arg.toNat ≤ (aabArg 2 3).cfg.cmax
        ∧ (aabArg 2 3).cfg.cmax + histCount (aabArg 2 3) (0x41 : Byte).toNat
          < (aabArg 2 3).total.toNat + (aabArg 2 3).arg.toNat)
      ∧ (TableInv (aabArg 2 2) ∧ (aabArg 2 2).histValid = true ∧ (aabArg 2 2).arg.toNat ≤ (aabArg 2 2).cfg.cmax
        ∧ (aabArg 2 2).total.toNat + (aabArg 2 2).arg.toNat
          ≤ (aabArg 2 2).cfg.cmax + histCount (aabArg 2 2) (0x41 : Byte).toNat) := by
  rw [histCount_aab, histCount_aab]
  exact ⟨⟨tableInv_reset, rfl⟩, ⟨(codesInv_aabArg 2 _ codesInv_aab2).1.1, rfl, by decide⟩,
    ⟨(codesInv_aabArg 2 _ codesInv_aab2).1.1, rfl, by decide, by decide⟩, ⟨(codesInv_aabArg 2 _ codesInv_aab2).1.1, rfl, by decide, by decide⟩⟩

theorem witness_MakeTableSortsTheHistogram :
    (TableInv State.reset ∧ State.reset.histValid = false) ∧ (TableInv oneX ∧ oneX.histValid = true) :=
  ⟨⟨tableInv_reset, rfl⟩, ⟨codesInv_oneX.1.1, rfl⟩⟩

theorem witness_BuildTreeMergesTheSmallest :
    (TableInv State.reset ∧ State.reset.tableValid = false) ∧ (TableInv (aab 2) ∧ (aab 2).tableValid = true)
      ∧ (TableInv oneX ∧ oneX.tableValid = true) :=
  ⟨⟨tableInv_reset, rfl⟩, ⟨codesInv_aab2.1.1, rfl⟩, ⟨codesInv_oneX.1.1, rfl⟩⟩

theorem witness_TreeDependsOnTheTableAlone :
    ∃ t t', scenario1.cfg.cntW = ({ scenario1 with arg := 5, rdPos := 15 } : State).cfg.cntW
      ∧ scenario1.nsyms = ({ scenario1 with arg := 5, rdPos := 15 } : State).nsyms
      ∧ (∀ i, i < scenario1.nsyms.toNat →
        ftSymAt scenario1 i = ftSymAt { scenario1 with arg := 5, rdPos := 15 } i
          ∧ ftCntAt scenario1 i = ftCntAt { scenario1 with arg := 5, rdPos := 15 } i)
      ∧ scenario1.tableValid = true
      ∧ exec .buildTree scenario1 = .next t
      ∧ exec .buildTree { scenario1 with arg := 5, rdPos := 15 } = .next t' :=
  ⟨_, _, rfl, rfl, fun _ _ => ⟨rfl, rfl⟩, rfl, rfl, rfl⟩

theorem treeInv_reset : TreeInv State.reset := ⟨tableInv_reset, nofun⟩

theorem witness_AssignCodesGivesThePaths :
    (TreeInv State.reset ∧ State.reset.treeValid = false) ∧ (TreeInv (aab 2) ∧ (aab 2).treeValid = true)
      ∧ (TreeInv oneX ∧ oneX.treeValid = true) :=
  ⟨⟨treeInv_reset, rfl⟩, ⟨codesInv_aab2.1, rfl⟩, ⟨codesInv_oneX.1, rfl⟩⟩

theorem witness_CodesArePrefixFree :
    CodesInv (aab 2) ∧ (aab 2).codesValid = true ∧ (0x41 : Byte) ≠ 0x42
      ∧ 1 ≤ codeLength (aab 2) 0x41 ∧ 1 ≤ codeLength (aab 2) 0x42 :=
  ⟨codesInv_aab2, rfl, by decide, by rw [codeLength_aab_A],
    (codeLength_built (w := 2) (x := aabContents) (total := 3) (n := 2) 0x42).ge⟩

theorem witness_CodesFillTheCodeSpace :
    (CodesInv oneX ∧ oneX.codesValid = true ∧ oneX.nsyms.toNat = 1)
      ∧ (CodesInv (aab 2) ∧ (aab 2).codesValid = true ∧ 2 ≤ (aab 2).nsyms.toNat) :=
  ⟨⟨codesInv_oneX, rfl, by decide⟩, ⟨codesInv_aab2, rfl, by decide⟩⟩

theorem witness_DecodeSymFollowsTheBits_leaf :
    leaf5A.treeValid = true ∧ leaf5A.nnodes ≠ 0
      ∧ infoLeaf (nodeInfoAt leaf5A leaf5A.root.toNat) = true
      ∧ avail { leaf5A with rdPos := 8 } < ({ leaf5A with rdPos := 8 } : State).rdPos.toNat + 1
      ∧ ({ leaf5A with rdPos := 7 } : State).rdPos.toNat + 1 ≤ avail { leaf5A with rdPos := 7 }
      ∧ inBit { leaf5A with rdPos := 7 } 7 0 = false
      ∧ inBit { leaf5A with rdPos := 2 } 2 0 = true := by decide

/-- The tree of Scenario 1 on the input FF. -/
def scenarioFF (p : BitVec 16) : State := { scenario1 with ibuf := [(0, 0xFF)], inLen := 1, rdPos := p }

theorem witness_DecodeSymFollowsTheBits_path :
    (scenarioFF 6).treeValid = true ∧ (scenarioFF 6).nnodes ≠ 0
      ∧ infoLeaf (nodeInfoAt (scenarioFF 6) (scenarioFF 6).root.toNat) = false
      ∧ follow (nodeInfoAt (scenarioFF 6)) (scenarioFF 6).root.toNat [true, true] = some 1
      ∧ infoLeaf (nodeInfoAt (scenarioFF 6) 1) = true
      ∧ (scenarioFF 6).rdPos.toNat + [true, true].length ≤ avail (scenarioFF 6)
      ∧ (∀ k, k < 2 → [true, true][k]? = some (inBit (scenarioFF 6) ((scenarioFF 6).rdPos.toNat + k) k)) := by decide

theorem witness_DecodeSymFollowsTheBits_end :
    infoLeaf (nodeInfoAt (scenarioFF 7) (scenarioFF 7).root.toNat) = false
      ∧ ∀ k j, k ≤ avail (scenarioFF 7) - (scenarioFF 7).rdPos.toNat →
        follow (nodeInfoAt (scenarioFF 7)) (scenarioFF 7).root.toNat (inBits (scenarioFF 7) k) = some j →
        infoLeaf (nodeInfoAt (scenarioFF 7) j) = false := by
  refine ⟨by decide, fun k j hk h => ?_⟩
  have hk' : k ≤ 1 := hk
  obtain rfl | rfl : k = 0 ∨ k = 1 := by omega
  · have : some 4 = some j := (by decide : follow (nodeInfoAt (scenarioFF 7)) (scenarioFF 7).root.toNat
      (inBits (scenarioFF 7) 0) = some 4).symm.trans h
    obtain rfl := Option.some.inj this
    decide
  · have : some 3 = some j := (by decide : follow (nodeInfoAt (scenarioFF 7)) (scenarioFF 7).root.toNat
      (inBits (scenarioFF 7) 1) = some 3).symm.trans h
    obtain rfl := Option.some.inj this
    decide

theorem writerInv_aab2 : WriterInv (aab 2) :=
  ⟨by rfl, by decide, fun _ _ _ => BitVec.getLsbD_zero, nofun, fun k hk => absurd hk (Nat.not_lt_zero k)⟩

theorem witness_PayloadRoundTrip :
    CodesInv (aab 2) ∧ (aab 2).codesValid = true ∧ WriterInv (aab 2) ∧ (aab 2).wrClosed = false
      ∧ outLength (aab 2) = 0 ∧ (aab 2).err = false
      ∧ (∀ c ∈ ([0x41, 0x41, 0x42] : List Byte), 1 ≤ codeLength (aab 2) c)
      ∧ ((([0x41, 0x41, 0x42] : List Byte).map (codeLength (aab 2))).sum + 7) / 8 ≤ (aab 2).cfg.obufSize
      ∧ ((([0x41, 0x41, 0x42] : List Byte).map (codeLength (aab 2))).sum + 7) / 8 ≤ (aab 2).cfg.ibufSize := by
  have hA : codeLength (aab 2) 0x41 = 1 := codeLength_built _
  have hB : codeLength (aab 2) 0x42 = 1 := codeLength_built _
  refine ⟨codesInv_aab2, rfl, writerInv_aab2, rfl, rfl, rfl, ?_, ?_, ?_⟩
  · intro c hc
    obtain rfl | rfl : c = 0x41 ∨ c = 0x42 := by revert c; decide
    · exact hA.ge
    · exact hB.ge
  · simp only [List.map, hA, hB]; decide
  · simp only [List.map, hA, hB]; decide

theorem witness_AddressMapAsListed :
    Config.default.wf = true ∧ (resetObuf 1).cfg.wf = true
      ∧ 0x27FC % 4 = 0 ∧ (0x8000 + 4 * 4095 ≤ 0xBFFC) ∧ (0xC000 + 4 * (resetObuf 1).cfg.obufSize ≤ 0xC004) := by
  decide

theorem witness_BusErrorsChangeNothing :
    locate State.reset.cfg (0x0048 : BitVec 16).toNat = none ∧ (0x0002 : BitVec 16).toNat % 4 ≠ 0
      ∧ (0x0044 : BitVec 16).toNat % 4 = 0 ∧ locate State.reset.cfg (0x0044 : BitVec 16).toNat ≠ none := by decide

theorem witness_ReadsAndReadOnlyWritesHaveNoEffect :
    Target.id ≠ .cmd ∧ Target.id ≠ .status ∧ Target.id ≠ .arg ∧ Target.id ≠ .inLen ∧ ∀ k, Target.id ≠ .ibuf k :=
  ⟨nofun, nofun, nofun, nofun, nofun⟩

theorem witness_CommandWriteIsAcceptedOrDropped :
    ({ State.reset with pending := some 0 } : State).busy = true
      ∧ ({ State.reset with err := true } : State).err = true
      ∧ State.reset.busy = false ∧ State.reset.err = false := by decide

theorem witness_ConfigReportsTheParameters :
    State.reset.cfg.wf = true ∧ State.reset.cfg.cntW = 32 ∧ State.reset.cfg.bitOrder = .msbFirst
      ∧ State.reset.cfg.ibufSize = 4096 ∧ State.reset.cfg.obufSize = 4096 ∧ (resetCnt 1).cfg.wf = true := by decide

theorem witness_BusyAccesses :
    ({ State.reset with pending := some 0 } : State).busy = true
      ∧ Target.hist 0 ∉ [Target.id, .config, .ibufSize, .obufSize, .cmd, .status] := by decide

theorem witness_IdleOperandWritesStore : State.reset.busy = false ∧ State.reset.cfg.wf = true ∧ 0 ≠ 4095 := by
  decide

theorem witness_UnspecifiedCellsReadFreeValues :
    (full1 0).busy = false ∧ 0 < (full1 0).outBytes.toNat ∧ Cells.read (full1 0).obuf 0 = some 0xA5
      ∧ (full1 0).outBytes.toNat ≤ 1 ∧ Cells.read (full1 0).ibuf 0 = none ∧ Cells.read (full1 0).ftSym 255 = none
      ∧ Cells.read (full1 0).codeLen 255 = none ∧ Cells.read (full1 0).hist 255 = none
      ∧ Cells.read (full1 0).ftCnt 0 = none ∧ Cells.read (full1 0).nodeW 510 = none
      ∧ Cells.read (full1 0).nodeInfo 510 = none ∧ Cells.read (full1 0).codeBits 2047 = none
      ∧ Cells.read ({ full1 0 with obuf := [] } : State).obuf 0 = none := by decide

/-- One value in each array, at the last cell or below OUT_BYTES. -/
def oneEach : State :=
  { full1 0 with
    hist := [(255, 1)], ftCnt := [(255, 2)], nodeW := [(510, 3)], nodeInfo := [(510, 0x200)], codeBits := [(2047, 4)]
    ftSym := [(255, 5)], codeLen := [(255, 6)], ibuf := [(4095, 7)] }

theorem witness_IdleReadsGiveTheirValues :
    oneEach.busy = false ∧ Cells.read oneEach.hist 255 = some 1 ∧ Cells.read oneEach.ftCnt 255 = some 2
      ∧ Cells.read oneEach.nodeW 510 = some 3 ∧ Cells.read oneEach.nodeInfo 510 = some 0x200
      ∧ Cells.read oneEach.codeBits 2047 = some 4 ∧ Cells.read oneEach.ftSym 255 = some 5
      ∧ Cells.read oneEach.codeLen 255 = some 6 ∧ Cells.read oneEach.ibuf 4095 = some 7
      ∧ 0 < oneEach.outBytes.toNat ∧ Cells.read oneEach.obuf 0 = some 0xA5 := by decide

theorem witness_ServedAccessesReachTheirTarget :
    (0x0044 : BitVec 16).toNat % 4 = 0 ∧ locate State.reset.cfg (0x0044 : BitVec 16).toNat = some .rdPos := by decide

theorem witness_ResetPutsTheListedValues :
    ({ full1 3 with pending := some 0x20, turns := [.assertReset, .releaseReset, .engine] } : State).turns
      = .assertReset :: .releaseReset :: [.engine] := rfl

theorem witness_ResetMeetsTheInvariants : (resetCnt 1).cfg.wf = true ∧ (resetObuf 4096).cfg.wf = true := by decide

/-! The invariants and a step that answers a next state, from a state where they say something. -/

theorem memWf_full1 : MemoryInv ((full1 0).withFetchWord 32 0x20) := by unfold MemoryInv; decide

theorem witness_StepKeepsMemoryCanonical :
    ∃ t, MemoryInv ((full1 0).withFetchWord 32 0x20) ∧ step ((full1 0).withFetchWord 32 0x20) = .next t :=
  ⟨_, memWf_full1, rfl⟩

theorem witness_StepKeepsErrorLatch :
    (∃ t, LatchInv (State.reset.withFetchWord 32 0x24) ∧ step (State.reset.withFetchWord 32 0x24) = .next t)
      ∧ LatchInv { State.reset with err := true, errcode := .notReady, errCmd := 0x24 } :=
  ⟨⟨_, ⟨fun _ => ⟨rfl, rfl⟩, nofun⟩, rfl⟩, ⟨nofun, fun _ => ⟨nofun, rfl⟩⟩⟩

theorem witness_StepKeepsWriterInvariant :
    ∃ t, WriterInv ((full1 1).withFetchWord 32 0x14) ∧ step ((full1 1).withFetchWord 32 0x14) = .next t :=
  ⟨_, writerInv_full1 1, rfl⟩

theorem witness_StepKeepsReaderBounds :
    ∃ t, ReaderInv ({ State.reset with rdPos := 32767 }.withFetchWord 32 0x1A)
      ∧ step ({ State.reset with rdPos := 32767 }.withFetchWord 32 0x1A) = .next t :=
  ⟨_, by unfold ReaderInv; decide, rfl⟩

theorem codesInv_place {s : State} (h : CodesInv s) (nbits v : Nat) : CodesInv (s.withFetchWord nbits v) :=
  codesInv_inputs h _ _ _ _ _ _

theorem witness_StepKeepsTableInvariant :
    ∃ t, TableInv (oneX.withFetchWord 32 0x24) ∧ step (oneX.withFetchWord 32 0x24) = .next t :=
  ⟨_, (codesInv_place codesInv_oneX 32 0x24).1.1, rfl⟩

theorem witness_StepKeepsTreeInvariant :
    ∃ t, TreeInv (oneX.withFetchWord 32 0x30) ∧ step (oneX.withFetchWord 32 0x30) = .next t :=
  ⟨_, (codesInv_place codesInv_oneX 32 0x30).1, rfl⟩

theorem witness_StepKeepsCodesInvariant :
    ∃ t, CodesInv ((aab 2).withFetchWord 32 0x20) ∧ step ((aab 2).withFetchWord 32 0x20) = .next t :=
  ⟨_, codesInv_place codesInv_aab2 32 0x20, rfl⟩

/-- 15 counts of one symbol at CNT_W = 4, and the SCAN_SYM that overflows (95_test_vectors.md 2.6). -/
theorem witness_StepKeepsCountWidths :
    ∃ t, CountWidthInv ({ resetCnt 4 with hist := [(7, 15)], total := 15, histValid := true }.withFetchWord 32 0x0821)
      ∧ step ({ resetCnt 4 with hist := [(7, 15)], total := 15, histValid := true }.withFetchWord 32 0x0821)
        = .next t := by
  refine ⟨_, ⟨by decide, fun k v h => ?_⟩, rfl⟩
  have h7 : Cells.read [(7, (15 : Word))] k = some v :=
    h.elim id fun h => h.elim (fun h => absurd h nofun) fun h => absurd h nofun
  simp only [Cells.read] at h7
  split at h7
  · rw [← Option.some.inj h7]; decide
  · exact absurd h7 nofun

theorem witness_NoStepStopsUnderTheInvariant :
    TreeInv { oneX with inReset := true, turns := [.host (.read 4 0)] }
      ∧ step { oneX with inReset := true, turns := [.host (.read 4 0)] } = .refused .accessDuringReset :=
  ⟨(codesInv_inputs codesInv_oneX _ _ _ _ _ _).1, rfl⟩

theorem witness_CommandsAreDeterminedByWrittenState :
    ∃ t, CodesInv (aabInput 3 4) ∧ InputWritten (aabInput 3 4) ∧ exec .scanBuf (aabInput 3 4) = .next t :=
  ⟨_, codesInv_aabInput 3 4 codesInv_aab3, fun k hk => by
    have hk' : k < 4 := hk
    simp [aabInput, Cells.read_fill, hk'], rfl⟩

end Sys2Proof.Tests
end

/-! PROOFS. What a command that answers a next state did (`exec_next`), what a step that answers one did
(`step_keeps`), and the statements of 00_scope.md that follow from them. -/

section
namespace Sys2Proof.Machine

/-! ### How a command ends (00_scope.md R17) -/

/-- The command with word c raised one of the eight errors on s (60_exceptions.md R302). -/
def Raises (c : Word) (s t : State) : Prop := ∃ e, e ≠ .none ∧ t = raise e c s

/-- The checks of WriteSeq passed: the writer is open and the bytes the bits complete fit (41_bitstream.md R163). -/
def WriteFits (bits : List Bool) (s : State) : Prop :=
  s.wrClosed = false ∧ s.outBytes.toNat + (s.wrNbits.toNat + bits.length) / 8 ≤ s.cfg.obufSize

/-- MAKE_TABLE's effect (42_frequency.md R204). -/
def tableMade (s : State) : State :=
  { s with
    ftCnt := Cells.fill nsym fun i => storeCount s.cfg ((freqTable s).getD i (0, 0)).1
    ftSym := Cells.fill nsym fun i => BitVec.ofNat 8 ((freqTable s).getD i (0, 0)).2
    nsyms := BitVec.ofNat 9 (freqTable s).length
    result := BitVec.ofNat 32 (freqTable s).length
    tableValid := true
    treeValid := false
    codesValid := false }

/-- What BUILD_TREE stores in NODE_W[j] (43_tree.md R231). -/
def builtWeight (s : State) (j : Nat) : Word :=
  match (builtNodes s)[j]? with
  | some x => storeCount s.cfg x.weight
  | none => 0

/-- What BUILD_TREE stores in NODE_INFO[j] (43_tree.md R231). -/
def builtInfo (s : State) (j : Nat) : Word :=
  match (builtNodes s)[j]? with
  | some x => packInfo x.leaf x.sym x.right x.left
  | none => 0

/-- BUILD_TREE's effect (43_tree.md R231). -/
def treeBuilt (s : State) : State :=
  { s with
    nodeW := Cells.fill maxNodes (builtWeight s)
    nodeInfo := Cells.fill maxNodes (builtInfo s)
    nnodes := BitVec.ofNat 10 (builtNodes s).length
    root := if s.nsyms = 0 then BitVec.ofNat 9 nodeNone else BitVec.ofNat 9 ((builtNodes s).length - 1)
    treeValid := true
    codesValid := false }

/-- ASSIGN_CODES' effect for the assignments l of the walk (44_codes.md R250). -/
def codesAssigned (l : List Assignment) (s : State) : State :=
  { s with
    codeLen := Cells.fill nsym fun c => BitVec.ofNat 8 (codeOf l (BitVec.ofNat 8 c)).length
    codeBits := Cells.fill (8 * nsym) fun k => codeWord (codeOf l (BitVec.ofNat 8 (k / 8))) (k % 8)
    codesValid := true }

/-- DECODE_SYM ends without an error at leaf j, having read up to position p: the 0 bit of a single leaf, or the
descent from an internal root (45_payload.md R271). -/
def DecodeReaches (s : State) (j p : Nat) : Prop :=
  (infoLeaf (nodeInfoAt s s.root.toNat) = true ∧ s.rdPos.toNat + 1 ≤ avail s
      ∧ inBit s s.rdPos.toNat 0 = false ∧ j = s.root.toNat ∧ p = s.rdPos.toNat + 1)
    ∨ (infoLeaf (nodeInfoAt s s.root.toNat) = false
      ∧ descend s (avail s - s.rdPos.toNat) s.root.toNat s.rdPos.toNat = some (j, p))

/-- Command i passes all its checks on s and completes in t. -/
def Completes (i : Instr) (s t : State) : Prop :=
  match i with
  | .nop => t = s
  | .wrReset => t = { s with wrAcc := 0, wrNbits := 0, outBytes := 0, wrClosed := false }
  | .writeBit b => WriteFits [b] s ∧ t = putBits [b] s
  | .writeBits n => WriteFits (argBits s.arg n) s ∧ t = putBits (argBits s.arg n) s
  | .flush => flushOverflows s = false ∧ t = flushed s
  | .close =>
    (s.wrClosed = true ∧ t = s)
      ∨ (s.wrClosed = false ∧ flushOverflows s = false ∧ t = { flushed s with wrClosed := true })
  | .rdReset => t = { s with rdPos := 0 }
  | .readBits n =>
    s.rdPos.toNat + n ≤ avail s
      ∧ t = { s with
          result := BitVec.ofNat 32 (bitsToNat (inBits s n))
          rdPos := BitVec.ofNat 16 (s.rdPos.toNat + n) }
  | .rdAlign => t = { s with rdPos := BitVec.ofNat 16 ((s.rdPos.toNat + 7) / 8 * 8) }
  | .clearHist => t = histChanged { s with hist := Cells.fill nsym fun _ => 0, total := 0, histValid := true }
  | .scanSym c =>
    s.histValid = true ∧ s.total.toNat + 1 ≤ s.cfg.cmax
      ∧ t = histChanged { countSym c s with total := storeCount s.cfg (s.total.toNat + 1) }
  | .scanBuf =>
    s.histValid = true ∧ s.total.toNat + s.inLen.toNat ≤ s.cfg.cmax
      ∧ t = histChanged { (inputBytes s).foldl (fun u c => countSym c u) s with
          total := storeCount s.cfg (s.total.toNat + s.inLen.toNat) }
  | .setBin c =>
    s.histValid = true ∧ s.arg.toNat ≤ s.cfg.cmax ∧ binTotal c s ≤ s.cfg.cmax
      ∧ t = histChanged { s with
          total := storeCount s.cfg (binTotal c s)
          hist := Cells.write s.hist c.toNat (storeCount s.cfg s.arg.toNat) }
  | .makeTable => s.histValid = true ∧ t = tableMade s
  | .buildTree => s.tableValid = true ∧ t = treeBuilt s
  | .assignCodes => s.treeValid = true ∧ ∃ l, treeAssignments s = some l ∧ t = codesAssigned l s
  | .writeCode c =>
    s.codesValid = true ∧ codeLength s c ≠ 0 ∧ WriteFits (codeSeq s c) s ∧ t = putBits (codeSeq s c) s
  | .decodeSym => s.treeValid = true ∧ s.nnodes ≠ 0 ∧ ∃ j p, DecodeReaches s j p ∧ t = decoded s j p

theorem fail_raises {e : ErrCode} {c : Word} {s t : State} (he : e ≠ .none) (h : fail e c s = .next t) :
    Raises c s t := ⟨e, he, fail_next h⟩

/-- A check of a command: it raised the check's error, or the check passed and the rest of the command ran. -/
theorem check_next {p : Prop} [Decidable p] {e : ErrCode} {c : Word} {s t : State} {rest : Result}
    (he : e ≠ .none) (h : (if p then fail e c s else rest) = .next t) :
    Raises c s t ∨ (¬ p ∧ rest = .next t) := by
  by_cases hp : p
  · rw [if_pos hp] at h; exact .inl (fail_raises he h)
  · rw [if_neg hp] at h; exact .inr ⟨hp, h⟩

/-- A check that a flag is 1. -/
theorem check_flag_next {b : Bool} {e : ErrCode} {c : Word} {s t : State} {rest : Result}
    (he : e ≠ .none) (h : (if !b then fail e c s else rest) = .next t) :
    Raises c s t ∨ (b = true ∧ rest = .next t) :=
  (check_next he h).imp_right fun ⟨hb, h⟩ => ⟨by simpa using hb, h⟩

theorem next_eq {s t : State} (h : (.next s : Result) = .next t) : t = s := (Host.Outcome.next.inj h).symm

/-! One lemma per command that has a check. -/

theorem writeSeq_next {c : Word} {bits : List Bool} {s t : State} (h : writeSeq c bits s = .next t) :
    Raises c s t ∨ (WriteFits bits s ∧ t = putBits bits s) := by
  obtain ⟨-, he⟩ | ⟨-, -, he⟩ | ⟨ho, hfit, he⟩ := writeSeq_cases c bits s
  · exact .inl (fail_raises (by decide) (he.symm.trans h))
  · exact .inl (fail_raises (by decide) (he.symm.trans h))
  · exact .inr ⟨⟨ho, hfit⟩, next_eq (he.symm.trans h)⟩

theorem execFlush_next {s t : State} (h : execFlush s = .next t) :
    Raises (encode .flush) s t ∨ Completes .flush s t := by
  obtain hr | ⟨hf, h⟩ := check_next (by decide) h
  · exact .inl hr
  · exact .inr ⟨by simpa using hf, next_eq h⟩

theorem execClose_next {s t : State} (h : execClose s = .next t) :
    Raises (encode .close) s t ∨ Completes .close s t := by
  unfold execClose at h
  by_cases hc : s.wrClosed = true
  · rw [if_pos hc] at h
    exact .inr (.inl ⟨hc, next_eq h⟩)
  · rw [if_neg hc] at h
    obtain hr | ⟨hf, h⟩ := check_next (by decide) h
    · exact .inl hr
    · exact .inr (.inr ⟨by simpa using hc, by simpa using hf, next_eq h⟩)

theorem execReadBits_next {n : Nat} {s t : State} (h : execReadBits n s = .next t) :
    Raises (encode (.readBits n)) s t ∨ Completes (.readBits n) s t := by
  obtain hr | ⟨hn, h⟩ := check_next (by decide) h
  · exact .inl hr
  · exact .inr ⟨by omega, next_eq h⟩

theorem execScanSym_next {c : Byte} {s t : State} (h : execScanSym c s = .next t) :
    Raises (encode (.scanSym c)) s t ∨ Completes (.scanSym c) s t := by
  obtain hr | ⟨hv, h⟩ := check_flag_next (by decide) h
  · exact .inl hr
  obtain hr | ⟨hm, h⟩ := check_next (by decide) h
  · exact .inl hr
  · exact .inr ⟨hv, by omega, next_eq h⟩

theorem execScanBuf_next {s t : State} (h : execScanBuf s = .next t) :
    Raises (encode .scanBuf) s t ∨ Completes .scanBuf s t := by
  obtain hr | ⟨hv, h⟩ := check_flag_next (by decide) h
  · exact .inl hr
  obtain hr | ⟨hm, h⟩ := check_next (by decide) h
  · exact .inl hr
  · exact .inr ⟨hv, by omega, next_eq h⟩

theorem execSetBin_next {c : Byte} {s t : State} (h : execSetBin c s = .next t) :
    Raises (encode (.setBin c)) s t ∨ Completes (.setBin c) s t := by
  obtain hr | ⟨hv, h⟩ := check_flag_next (by decide) h
  · exact .inl hr
  obtain hr | ⟨hm, h⟩ := check_next (by decide) h
  · exact .inl hr
  · exact .inr ⟨hv, by omega, by omega, next_eq h⟩

theorem execMakeTable_next {s t : State} (h : execMakeTable s = .next t) :
    Raises (encode .makeTable) s t ∨ Completes .makeTable s t :=
  (check_flag_next (by decide) h).imp_right fun ⟨hv, h⟩ => ⟨hv, next_eq h⟩

theorem execBuildTree_next {s t : State} (h : execBuildTree s = .next t) :
    Raises (encode .buildTree) s t ∨ Completes .buildTree s t :=
  (check_flag_next (by decide) h).imp_right fun ⟨hv, h⟩ => ⟨hv, next_eq h⟩

theorem execAssignCodes_next {s t : State} (h : execAssignCodes s = .next t) :
    Raises (encode .assignCodes) s t ∨ Completes .assignCodes s t := by
  obtain hr | ⟨hv, h⟩ := check_flag_next (by decide) h
  · exact .inl hr
  · cases hl : treeAssignments s with
    | none => simp [hl] at h
    | some l => rw [hl] at h; exact .inr ⟨hv, l, hl, next_eq h⟩

theorem execWriteCode_next {c : Byte} {s t : State} (h : execWriteCode c s = .next t) :
    Raises (encode (.writeCode c)) s t ∨ Completes (.writeCode c) s t := by
  obtain hr | ⟨-, h⟩ := check_next (by decide) h
  · exact .inl hr
  obtain hr | ⟨hv, h⟩ := check_flag_next (by decide) h
  · exact .inl hr
  obtain hr | ⟨hl, h⟩ := check_next (by decide) h
  · exact .inl hr
  · exact (writeSeq_next h).imp_right fun hw => ⟨hv, hl, hw⟩

theorem execDecodeSym_next {s t : State} (h : execDecodeSym s = .next t) :
    Raises (encode .decodeSym) s t ∨ Completes .decodeSym s t := by
  obtain hr | ⟨hg, h⟩ := check_next (by decide) h
  · exact .inl hr
  have hready : s.treeValid = true ∧ s.nnodes ≠ 0 := by simpa using hg
  cases hleaf : infoLeaf (nodeInfoAt s s.root.toNat) with
  | true =>
    rw [if_pos hleaf] at h
    obtain hr | ⟨hav, h⟩ := check_next (by decide) h
    · exact .inl hr
    obtain hr | ⟨hbit, h⟩ := check_next (by decide) h
    · exact .inl hr
    · exact .inr ⟨hready.1, hready.2, _, _,
        .inl ⟨hleaf, by omega, by simpa using hbit, rfl, rfl⟩, next_eq h⟩
  | false =>
    rw [if_neg (by simp [hleaf])] at h
    cases hd : descend s (avail s - s.rdPos.toNat) s.root.toNat s.rdPos.toNat with
    | none => rw [hd] at h; exact .inl (fail_raises (by decide) h)
    | some e => rw [hd] at h; exact .inr ⟨hready.1, hready.2, e.1, e.2, .inr ⟨hleaf, hd⟩, next_eq h⟩

/-- A command that answers a next state raised one error, or passed its checks and completed. -/
theorem exec_next {i : Instr} {s t : State} (h : exec i s = .next t) :
    Raises (encode i) s t ∨ Completes i s t := by
  cases i with
  | nop | wrReset | rdReset | rdAlign | clearHist => exact .inr (next_eq h)
  | writeBit b | writeBits n => exact writeSeq_next h
  | flush => exact execFlush_next h
  | close => exact execClose_next h
  | readBits n => exact execReadBits_next h
  | scanSym c => exact execScanSym_next h
  | scanBuf => exact execScanBuf_next h
  | setBin c => exact execSetBin_next h
  | makeTable => exact execMakeTable_next h
  | buildTree => exact execBuildTree_next h
  | assignCodes => exact execAssignCodes_next h
  | writeCode c => exact execWriteCode_next h
  | decodeSym => exact execDecodeSym_next h

/-! ### Frames of the shared operations -/

/-- Counting symbols touches HIST alone. -/
theorem countSyms_frame (l : List Byte) (s : State) :
    l.foldl (fun u c => countSym c u) s = { s with hist := (l.foldl (fun u c => countSym c u) s).hist } := by
  induction l generalizing s with
  | nil => rfl
  | cons c l ih => rw [List.foldl_cons, ih (countSym c s)]; rfl

/-- FLUSH's effect touches only the writer's registers and OBUF. -/
theorem flushed_frame (s : State) :
    flushed s = { s with
      obuf := (flushed s).obuf, outBytes := (flushed s).outBytes
      wrAcc := (flushed s).wrAcc, wrNbits := (flushed s).wrNbits } := by
  obtain ⟨-, h⟩ | ⟨-, h⟩ := flushed_cases s
  · rw [h]
  · rw [h]; rfl

/-! ### The error latch -/

/-- t has the error latch, DROP and PENDING of s. -/
def LatchKept (s t : State) : Prop :=
  t.err = s.err ∧ t.errcode = s.errcode ∧ t.errCmd = s.errCmd ∧ t.drop = s.drop ∧ t.pending = s.pending

theorem latchKept_putBits (bits : List Bool) (s : State) : LatchKept s (putBits bits s) := by
  rw [putBits_frame]; exact ⟨rfl, rfl, rfl, rfl, rfl⟩

theorem latchKept_of_completes {i : Instr} {s t : State} (h : Completes i s t) : LatchKept s t := by
  cases i with
  | nop | wrReset | rdReset | rdAlign | clearHist => obtain rfl := h; exact ⟨rfl, rfl, rfl, rfl, rfl⟩
  | writeBit b | writeBits n => obtain ⟨-, rfl⟩ := h; exact latchKept_putBits _ s
  | flush => obtain ⟨-, rfl⟩ := h; rw [flushed_frame]; exact ⟨rfl, rfl, rfl, rfl, rfl⟩
  | close =>
    obtain ⟨-, rfl⟩ | ⟨-, -, rfl⟩ := h
    · exact ⟨rfl, rfl, rfl, rfl, rfl⟩
    · rw [flushed_frame]; exact ⟨rfl, rfl, rfl, rfl, rfl⟩
  | readBits n | makeTable | buildTree => obtain ⟨-, rfl⟩ := h; exact ⟨rfl, rfl, rfl, rfl, rfl⟩
  | scanSym c => obtain ⟨-, -, rfl⟩ := h; exact ⟨rfl, rfl, rfl, rfl, rfl⟩
  | scanBuf => obtain ⟨-, -, rfl⟩ := h; rw [countSyms_frame]; exact ⟨rfl, rfl, rfl, rfl, rfl⟩
  | setBin c => obtain ⟨-, -, -, rfl⟩ := h; exact ⟨rfl, rfl, rfl, rfl, rfl⟩
  | assignCodes => obtain ⟨-, l, -, rfl⟩ := h; exact ⟨rfl, rfl, rfl, rfl, rfl⟩
  | writeCode c => obtain ⟨-, -, -, rfl⟩ := h; exact latchKept_putBits _ s
  | decodeSym => obtain ⟨-, -, j, p, -, rfl⟩ := h; exact ⟨rfl, rfl, rfl, rfl, rfl⟩

/-- Settles O10: `exec_next` gives the two ends, and no completed command writes the latch, DROP or PENDING. -/
theorem commandCompletesOrRaises : Obligations.CommandCompletesOrRaises :=
  fun _ _ _ h => (exec_next h).imp_right latchKept_of_completes

/-! ### What a host access can write (20_memory.md R86, R89) -/

/-- A host write touches only PENDING, the error latch, DROP and the operands ARG, IN_LEN and IBUF. -/
theorem writeTarget_frame (v : Word) (s : State) (x : Target) :
    writeTarget v s x = { s with
      pending := (writeTarget v s x).pending, err := (writeTarget v s x).err, drop := (writeTarget v s x).drop
      errcode := (writeTarget v s x).errcode, errCmd := (writeTarget v s x).errCmd
      arg := (writeTarget v s x).arg, inLen := (writeTarget v s x).inLen, ibuf := (writeTarget v s x).ibuf } := by
  cases x with
  | cmd =>
    rw [writeTarget]
    obtain ⟨-, h⟩ | ⟨-, -, h⟩ := presentCommand_cases v s
    · rw [h]; rfl
    · rw [h]
  | status =>
    rw [writeTarget, writeStatus]
    split <;> split <;> rfl
  | arg | inLen | ibuf k =>
    rw [writeTarget]
    obtain ⟨-, h⟩ | ⟨-, h⟩ := operandWrite_cases _ s <;> rw [h] <;> rfl
  | _ => rfl

/-- A host access touches only the reply and what a host write can touch. -/
theorem access_frame (s : State) (a : Access) :
    access s a = { s with
      pending := (access s a).pending, err := (access s a).err, drop := (access s a).drop
      errcode := (access s a).errcode, errCmd := (access s a).errCmd
      arg := (access s a).arg, inLen := (access s a).inLen, ibuf := (access s a).ibuf
      reply := (access s a).reply } := by
  cases a with
  | read size x => rw [access_read]
  | write size x v =>
    rw [access]
    split
    · rw [writeTarget_frame]
    · rfl

/-! ### What a step can do -/

/-- A step is the first turn that is left, and the engine's when none is (20_memory.md R95). -/
theorem step_eq (s : State) : step s = takeTurn (s.turns.headD .engine) { s with turns := s.turns.tail } := by
  cases h : s.turns with
  | nil => simp only [step, h, List.headD_nil, List.tail_nil, takeTurn]; rw [← h]
  | cons a rest => simp [step, h]

theorem runCommand_next {c : Word} {s t : State} (h : runCommand c s = .next t) :
    Raises c s t ∨ ∃ i, decode c = .ok i ∧ exec i s = .next t := by
  cases hd : decode c with
  | error w => rw [runCommand_illegal hd] at h; exact .inl (fail_raises (by decide) h)
  | ok i => rw [runCommand_ok hd] at h; exact .inr ⟨i, rfl, h⟩

theorem engineTurn_next {s t : State} (h : engineTurn s = .next t) :
    t = s ∨ ∃ c, s.inReset = false ∧ s.pending = some c ∧ runCommand c (beginCommand s) = .next t := by
  cases hr : s.inReset with
  | true => rw [engineTurn, if_pos hr] at h; exact .inl (next_eq h)
  | false =>
    cases hp : s.pending with
    | none => rw [engineTurn_idle hp] at h; exact .inl (next_eq h)
    | some c => rw [engineTurn_pending hr hp] at h; exact .inr ⟨c, rfl, rfl, h⟩

theorem hostTurn_next {a : Access} {s t : State} (h : hostTurn a s = .next t) :
    s.inReset = false ∧ t = access (freshDraws s) a := by
  unfold hostTurn at h
  cases hr : s.inReset with
  | true => simp [hr] at h
  | false => rw [hr] at h; exact ⟨rfl, next_eq h⟩

/-- A property that every end of a command, every access and every change of the reset input keeps is kept by
every step. -/
theorem step_keeps {P : State → Prop}
    (turns : ∀ s l, P s → P { s with turns := l })
    (raises : ∀ c s t, P s → Raises c (beginCommand s) t → P t)
    (completes : ∀ i s t, P s → Completes i (beginCommand s) t → P t)
    (accessed : ∀ a s, P s → P (access (freshDraws s) a))
    (asserted : ∀ s, P s → P (assertReset s))
    (released : ∀ s, P s → P (releaseReset s))
    {s t : State} (hs : P s) (h : step s = .next t) : P t := by
  rw [step_eq] at h
  have hu := turns s s.turns.tail hs
  generalize ({ s with turns := s.turns.tail } : State) = u at h hu
  cases hturn : s.turns.headD .engine with
  | host a =>
    rw [hturn] at h
    obtain ⟨-, rfl⟩ := hostTurn_next h
    exact accessed a u hu
  | engine =>
    rw [hturn] at h
    obtain rfl | ⟨c, -, -, h⟩ := engineTurn_next h
    · exact hu
    obtain hr | ⟨i, -, h⟩ := runCommand_next h
    · exact raises c u t hu hr
    · exact (exec_next h).elim (raises _ u t hu) (completes i u t hu)
  | assertReset => rw [hturn] at h; rw [next_eq h]; exact asserted u hu
  | releaseReset => rw [hturn] at h; rw [next_eq h]; exact released u hu

/-! ### The width of the counts (00_scope.md R9) -/

/-- Every value the array holds is below b. -/
def CountsFit (b : Nat) (m : Cells Word) : Prop := ∀ k v, Cells.read m k = some v → v.toNat < b

theorem countWidthInv_iff (s : State) :
    CountWidthInv s ↔ s.total.toNat < 2 ^ s.cfg.cntW ∧ CountsFit (2 ^ s.cfg.cntW) s.hist
      ∧ CountsFit (2 ^ s.cfg.cntW) s.ftCnt ∧ CountsFit (2 ^ s.cfg.cntW) s.nodeW := by
  constructor
  · rintro ⟨htotal, hcells⟩
    exact ⟨htotal, fun k v h => hcells k v (.inl h), fun k v h => hcells k v (.inr (.inl h)),
      fun k v h => hcells k v (.inr (.inr h))⟩
  · rintro ⟨htotal, hhist, htable, htree⟩
    exact ⟨htotal, fun k v h => h.elim (hhist k v) fun h => h.elim (htable k v) (htree k v)⟩

theorem countsFit_write {b : Nat} {m : Cells Word} (k : Nat) {v : Word} (hv : v.toNat < b)
    (hm : CountsFit b m) : CountsFit b (Cells.write m k v) := by
  intro i w h
  rw [Cells.read_write] at h
  split at h
  · rwa [← Option.some.inj h]
  · exact hm i w h

theorem countsFit_fill {b : Nat} (n : Nat) {f : Nat → Word} (hf : ∀ k, (f k).toNat < b) :
    CountsFit b (Cells.fill n f) := by
  intro k w h
  rw [Cells.read_fill] at h
  split at h
  · rw [← Option.some.inj h]; exact hf k
  · cases h

theorem countsFit_countSyms (l : List Byte) {s : State} (h : CountsFit (2 ^ s.cfg.cntW) s.hist) :
    CountsFit (2 ^ s.cfg.cntW) (l.foldl (fun u c => countSym c u) s).hist := by
  induction l generalizing s with
  | nil => exact h
  | cons c l ih =>
    exact ih (s := countSym c s) (countsFit_write c.toNat (storeCount_lt s.cfg _) h)

theorem countWidthInv_resetOf (cfg : Config) : CountWidthInv (State.resetOf cfg) :=
  (countWidthInv_iff _).mpr ⟨Nat.two_pow_pos _, nofun, nofun, nofun⟩

theorem tableMade_ftCnt (s : State) :
    (tableMade s).ftCnt = Cells.fill nsym fun i => storeCount s.cfg ((freqTable s).getD i (0, 0)).1 := by
  simp only [tableMade]

theorem countWidthInv_tableMade {s : State} (h : CountWidthInv s) : CountWidthInv (tableMade s) := by
  obtain ⟨htotal, hhist, -, htree⟩ := (countWidthInv_iff s).mp h
  refine (countWidthInv_iff _).mpr ⟨htotal, hhist, ?_, htree⟩
  rw [tableMade_ftCnt]
  exact countsFit_fill nsym fun _ => storeCount_lt s.cfg _

theorem builtWeight_lt (s : State) (j : Nat) : (builtWeight s j).toNat < 2 ^ s.cfg.cntW := by
  unfold builtWeight
  cases (builtNodes s)[j]? with
  | none => exact Nat.two_pow_pos _
  | some x => exact storeCount_lt s.cfg x.weight

theorem treeBuilt_nodeW (s : State) : (treeBuilt s).nodeW = Cells.fill maxNodes (builtWeight s) := by
  simp only [treeBuilt]

theorem countWidthInv_treeBuilt {s : State} (h : CountWidthInv s) : CountWidthInv (treeBuilt s) := by
  obtain ⟨htotal, hhist, htable, -⟩ := (countWidthInv_iff s).mp h
  refine (countWidthInv_iff _).mpr ⟨htotal, hhist, htable, ?_⟩
  rw [treeBuilt_nodeW]
  exact countsFit_fill maxNodes (builtWeight_lt s)

theorem countWidthInv_putBits (bits : List Bool) {s : State} (h : CountWidthInv s) :
    CountWidthInv (putBits bits s) := by
  rw [putBits_frame]; exact h

/-- Only CLEAR_HIST, SCAN_SYM, SCAN_BUF, SET_BIN, MAKE_TABLE and BUILD_TREE write a count, each through
`storeCount` or as 0; every other command leaves TOTAL, HIST, FT_CNT and NODE_W alone. -/
theorem countWidthInv_of_completes {i : Instr} {s t : State} (hs : CountWidthInv s) (h : Completes i s t) :
    CountWidthInv t := by
  obtain ⟨-, hhist, htable, htree⟩ := (countWidthInv_iff s).mp hs
  cases i with
  | nop | wrReset | rdReset | rdAlign => obtain rfl := h; exact hs
  | writeBit b | writeBits n => obtain ⟨-, rfl⟩ := h; exact countWidthInv_putBits _ hs
  | flush => obtain ⟨-, rfl⟩ := h; rw [flushed_frame]; exact hs
  | close =>
    obtain ⟨-, rfl⟩ | ⟨-, -, rfl⟩ := h
    · exact hs
    · rw [flushed_frame]; exact hs
  | readBits n => obtain ⟨-, rfl⟩ := h; exact hs
  | clearHist =>
    obtain rfl := h
    exact (countWidthInv_iff _).mpr
      ⟨Nat.two_pow_pos _, countsFit_fill nsym fun _ => Nat.two_pow_pos _, htable, htree⟩
  | scanSym c =>
    obtain ⟨-, -, rfl⟩ := h
    exact (countWidthInv_iff _).mpr
      ⟨storeCount_lt s.cfg _, countsFit_write c.toNat (storeCount_lt s.cfg _) hhist, htable, htree⟩
  | scanBuf =>
    obtain ⟨-, -, rfl⟩ := h
    rw [countSyms_frame]
    exact (countWidthInv_iff _).mpr
      ⟨storeCount_lt s.cfg _, countsFit_countSyms (inputBytes s) hhist, htable, htree⟩
  | setBin c =>
    obtain ⟨-, -, -, rfl⟩ := h
    exact (countWidthInv_iff _).mpr
      ⟨storeCount_lt s.cfg _, countsFit_write c.toNat (storeCount_lt s.cfg _) hhist, htable, htree⟩
  | makeTable => obtain ⟨-, rfl⟩ := h; exact countWidthInv_tableMade hs
  | buildTree => obtain ⟨-, rfl⟩ := h; exact countWidthInv_treeBuilt hs
  | assignCodes => obtain ⟨-, l, -, rfl⟩ := h; exact hs
  | writeCode c => obtain ⟨-, -, -, rfl⟩ := h; exact countWidthInv_putBits _ hs
  | decodeSym => obtain ⟨-, -, j, p, -, rfl⟩ := h; exact hs

theorem countWidthInv_access {s : State} (a : Access) (h : CountWidthInv s) : CountWidthInv (access s a) := by
  rw [access_frame]; exact h

/-- Settles O58: reset holds only zeros, an error and a host access touch no count, and a completed command
stores counts cut to CNT_W bits. -/
theorem stepKeepsCountWidths : Obligations.StepKeepsCountWidths := by
  refine ⟨countWidthInv_resetOf, fun s t hs h => step_keeps (P := CountWidthInv)
    ?turns ?raises ?completes ?accessed ?asserted ?released hs h⟩
  case turns => exact fun _ _ h => h
  case raises => rintro c s t h ⟨e, -, rfl⟩; exact h
  case completes => exact fun _ s _ h => countWidthInv_of_completes (s := beginCommand s) h
  case accessed => exact fun a s h => countWidthInv_access (s := freshDraws s) a h
  case asserted => exact fun s _ => countWidthInv_resetOf s.cfg
  case released => exact fun _ h => h

end Sys2Proof.Machine
end

/-! PROOFS. The error latch, the canonical form of the arrays, the reader's bounds and the writer's invariant are kept
by every step (10_state.md). -/

section
namespace Sys2Proof.Machine

/-! ### What an access can do to a property -/

/-- The address map names only the bytes IBUF has (20_memory.md R84, R85). -/
theorem lt_ibufSize_of_locate {cfg : Config} {a k : Nat} (h : locate cfg a = some (.ibuf k)) :
    k < cfg.ibufSize := by
  unfold locate at h
  cases hf : (addressMap cfg).find? fun r => r.holds a with
  | none => rw [hf] at h; cases h
  | some r =>
    rw [hf] at h
    have hholds := List.find?_some hf
    simp only [Region.holds, Bool.and_eq_true, decide_eq_true_eq] at hholds
    have honly : ∀ r ∈ addressMap cfg, ∀ x j, r.target x = .ibuf j → x = j ∧ r.count = cfg.ibufSize := by
      simp [addressMap]
    have hr := honly r (List.mem_of_find?_eq_some hf) _ k (Option.some.inj h)
    omega

/-- A property is kept by an access when it does not speak of the reply and each of the writes that have an effect
keeps it (20_memory.md R86, R89). -/
theorem access_keeps {P : State → Prop} {s : State} (a : Access) (hs : P s)
    (replied : ∀ u r, P u → P { u with reply := r })
    (dropped : P (dropWrite s))
    (presented : ∀ c, s.err = false → P { s with pending := some c })
    (cleared : ∀ v, P (writeStatus v s))
    (argStored : ∀ v, P { s with arg := v })
    (lenStored : ∀ v, P (storeInLen v s))
    (byteStored : ∀ k v, k < s.cfg.ibufSize → P (storeIbuf k v s)) : P (access s a) := by
  have operand : ∀ stored, P stored → P (operandWrite stored s) := fun stored h => by
    obtain ⟨-, he⟩ | ⟨-, he⟩ := operandWrite_cases stored s <;> rw [he] <;> assumption
  cases a with
  | read size x => rw [access_read]; exact replied s _ hs
  | write size x v =>
    rw [access]
    cases hg : served s.cfg size x with
    | none => exact replied s _ hs
    | some g =>
      refine replied _ _ ?_
      cases g with
      | cmd =>
        obtain ⟨-, he⟩ | ⟨-, herr, he⟩ := presentCommand_cases v s
        · rw [writeTarget, he]; exact dropped
        · rw [writeTarget, he]; exact presented v herr
      | status => exact cleared v
      | arg => exact operand _ (argStored v)
      | inLen => exact operand _ (lenStored v)
      | ibuf k =>
        refine operand _ (byteStored k v ?_)
        rw [served] at hg
        split at hg
        · exact lt_ibufSize_of_locate hg
        · cases hg
      | _ => exact hs

theorem writeStatus_frame (v : Word) (s : State) :
    writeStatus v s = { s with
      err := (writeStatus v s).err, drop := (writeStatus v s).drop
      errcode := (writeStatus v s).errcode, errCmd := (writeStatus v s).errCmd } := by
  rw [writeStatus]
  split <;> split <;> rfl

/-! ### The error latch (10_state.md R36, R37; 60_exceptions.md R304) -/

theorem latchInv_resetOf (cfg : Config) : LatchInv (State.resetOf cfg) := ⟨fun _ => ⟨rfl, rfl⟩, nofun⟩

theorem latchInv_writeStatus (v : Word) {s : State} (h : LatchInv s) : LatchInv (writeStatus v s) := by
  have hclear : LatchInv (clearError s) := ⟨fun _ => ⟨rfl, rfl⟩, nofun⟩
  have hdrop : ∀ u, LatchInv u → LatchInv (clearDrop u) := fun _ hu => hu
  unfold writeStatus
  split <;> split
  · exact hdrop _ hclear
  · exact hclear
  · exact hdrop _ h
  · exact h

theorem latchInv_access {s : State} (a : Access) (h : LatchInv s) : LatchInv (access s a) :=
  access_keeps a h
    (replied := fun _ _ h => h)
    (dropped := h)
    (presented := fun _ herr => ⟨h.1, fun ht => absurd (herr.symm.trans ht) (by decide)⟩)
    (cleared := fun v => latchInv_writeStatus v h)
    (argStored := fun _ => h)
    (lenStored := fun _ => h)
    (byteStored := fun _ _ _ => h)

/-- A completed command keeps the latch and leaves PENDING empty, as the engine's step had made it. -/
theorem latchInv_of_completes {i : Instr} {s t : State} (hs : LatchInv s) (h : Completes i (beginCommand s) t) :
    LatchInv t := by
  obtain ⟨herr, hcode, hcmd, -, hpending⟩ := latchKept_of_completes h
  refine ⟨fun ht => ?_, fun ht => ?_⟩
  · rw [hcode, hcmd]; exact hs.1 (herr.symm.trans ht)
  · rw [hcode]; exact ⟨(hs.2 (herr.symm.trans ht)).1, hpending⟩

/-- Settles O48: an error sets the latch with a code that is not NONE and empties PENDING, and a command is accepted
only while ERR = 0. -/
theorem stepKeepsErrorLatch : Obligations.StepKeepsErrorLatch := by
  refine fun s t hs h => step_keeps (P := LatchInv) ?turns ?raises ?completes ?accessed ?asserted ?released hs h
  case turns => exact fun _ _ h => h
  case raises => rintro c s t - ⟨e, he, rfl⟩; exact ⟨nofun, fun _ => ⟨he, rfl⟩⟩
  case completes => exact fun _ _ _ h => latchInv_of_completes h
  case accessed => exact fun a s h => latchInv_access (s := freshDraws s) a h
  case asserted => exact fun s _ => latchInv_resetOf s.cfg
  case released => exact fun _ h => h

/-! ### The canonical form of the arrays (10_state.md R50-R55; 41_bitstream.md R163) -/

theorem memoryInv_putBits {bits : List Bool} {s : State} (h : MemoryInv s) (hfit : WriteFits bits s) :
    MemoryInv (putBits bits s) :=
  memWf_putBits bits h hfit.2

/-- The writer stays within OBUF by its capacity check; every other command writes a cell its array has, or fills
whole arrays. -/
theorem memoryInv_of_completes {i : Instr} {s t : State} (hs : MemoryInv s) (h : Completes i s t) :
    MemoryInv t := by
  cases i with
  | nop | wrReset | rdReset | rdAlign => obtain rfl := h; exact hs
  | writeBit b | writeBits n => obtain ⟨hfit, rfl⟩ := h; exact memoryInv_putBits hs hfit
  | flush => obtain ⟨hroom, rfl⟩ := h; exact memWf_flushed hs hroom
  | close =>
    obtain ⟨-, rfl⟩ | ⟨-, hroom, rfl⟩ := h
    · exact hs
    · exact memWf_flushed hs hroom
  | readBits n => obtain ⟨-, rfl⟩ := h; exact hs
  | clearHist => obtain rfl := h; exact memWf_fill_hist hs _
  | scanSym c => obtain ⟨-, -, rfl⟩ := h; exact memWf_countSym hs c
  | scanBuf => obtain ⟨-, -, rfl⟩ := h; exact memWf_countSyms hs _
  | setBin c => obtain ⟨-, -, -, rfl⟩ := h; exact memWf_write_hist hs c.isLt _
  | makeTable => obtain ⟨-, rfl⟩ := h; exact memWf_fill_table hs _ _
  | buildTree => obtain ⟨-, rfl⟩ := h; exact memWf_fill_tree hs _ _
  | assignCodes => obtain ⟨-, l, -, rfl⟩ := h; exact memWf_fill_codes hs _ _
  | writeCode c => obtain ⟨-, -, hfit, rfl⟩ := h; exact memoryInv_putBits hs hfit
  | decodeSym => obtain ⟨-, -, j, p, -, rfl⟩ := h; exact hs

theorem memoryInv_access {s : State} (a : Access) (h : MemoryInv s) : MemoryInv (access s a) :=
  access_keeps a h
    (replied := fun _ _ h => h)
    (dropped := h)
    (presented := fun _ _ => h)
    (cleared := fun v => (memWf_writeStatus v s).trans h)
    (argStored := fun _ => h)
    (lenStored := fun _ => h)
    (byteStored := fun _ v hk => memWf_storeIbuf h hk v)

/-- Settles O47: commands and the host's IBUF writes write only cells an array has, each at its place. -/
theorem stepKeepsMemoryCanonical : Obligations.StepKeepsMemoryCanonical := by
  refine fun s t hs h => step_keeps (P := MemoryInv) ?turns ?raises ?completes ?accessed ?asserted ?released hs h
  case turns => exact fun _ _ h => h
  case raises => rintro c s t h ⟨e, -, rfl⟩; exact h
  case completes => exact fun _ s _ h => memoryInv_of_completes (s := beginCommand s) h
  case accessed => exact fun a s h => memoryInv_access (s := freshDraws s) a h
  case asserted => exact fun s _ => memWf_resetOf s.cfg
  case released => exact fun _ h => h

/-! ### The parameters (00_scope.md R9, R11) -/

theorem config_bounds {c : Config} (h : c.wf = true) :
    1 ≤ c.cntW ∧ c.cntW ≤ 32 ∧ 1 ≤ c.ibufSize ∧ c.ibufSize ≤ 4096 ∧ 1 ≤ c.obufSize ∧ c.obufSize ≤ 4096 := by
  simp only [Config.wf, Bool.and_eq_true, decide_eq_true_eq] at h
  omega

/-! ### The reader (10_state.md R48, R49; 00_scope.md R19) -/

/-- A descent reads no bit beyond those it was given (45_payload.md R271). -/
theorem descend_le {s : State} {left j p k q : Nat} (h : descend s left j p = some (k, q)) : q ≤ p + left := by
  induction left generalizing j p with
  | zero =>
    simp only [descend] at h
    split at h
    · simp_all
    · cases h
  | succ left ih =>
    rw [descend] at h
    split at h
    · simp only [Option.some.injEq, Prod.mk.injEq] at h; omega
    · have := ih h; omega

/-- A DECODE_SYM that reaches a leaf ends within the stream. -/
theorem decodeReaches_le_avail {s : State} {j p : Nat} (h : DecodeReaches s j p) : p ≤ avail s := by
  obtain ⟨-, hav, -, -, rfl⟩ | ⟨hleaf, hd⟩ := h
  · exact hav
  · by_cases hlt : s.rdPos.toNat < avail s
    · have := descend_le hd; omega
    · rw [show avail s - s.rdPos.toNat = 0 by omega, descend, if_neg (by simp [hleaf])] at hd
      cases hd

theorem readerInv_resetOf {cfg : Config} (h : cfg.wf = true) : ReaderInv (State.resetOf cfg) :=
  ⟨h, Nat.zero_le _, Nat.zero_le _⟩

/-- Moving RD_POS to a position within IBUF keeps the reader's bounds. -/
theorem readerInv_moveTo {s : State} {p : Nat} (h : ReaderInv s) (hp : p ≤ 8 * s.cfg.ibufSize) :
    ReaderInv { s with rdPos := BitVec.ofNat 16 p } := by
  obtain ⟨hwf, hlen, -⟩ := h
  refine ⟨hwf, hlen, ?_⟩
  rw [BitVec.toNat_ofNat]
  exact (Nat.mod_le _ _).trans hp

theorem ReaderInv.avail_le {s : State} (h : ReaderInv s) : avail s ≤ 8 * s.cfg.ibufSize := by
  obtain ⟨-, hlen, -⟩ := h
  unfold avail; omega

theorem readerInv_of_completes {i : Instr} {s t : State} (hs : ReaderInv s) (h : Completes i s t) :
    ReaderInv t := by
  have hav := hs.avail_le
  cases i with
  | nop | wrReset | clearHist => obtain rfl := h; exact hs
  | writeBit b | writeBits n => obtain ⟨-, rfl⟩ := h; rw [putBits_frame]; exact hs
  | flush => obtain ⟨-, rfl⟩ := h; rw [flushed_frame]; exact hs
  | close =>
    obtain ⟨-, rfl⟩ | ⟨-, -, rfl⟩ := h
    · exact hs
    · rw [flushed_frame]; exact hs
  | rdReset => obtain rfl := h; exact readerInv_moveTo hs (Nat.zero_le _)
  | readBits n => obtain ⟨hn, rfl⟩ := h; exact readerInv_moveTo hs (hn.trans hav)
  | rdAlign =>
    obtain rfl := h
    obtain ⟨-, -, hpos⟩ := id hs
    exact readerInv_moveTo hs (by omega)
  | scanSym c => obtain ⟨-, -, rfl⟩ := h; exact hs
  | scanBuf => obtain ⟨-, -, rfl⟩ := h; rw [countSyms_frame]; exact hs
  | setBin c => obtain ⟨-, -, -, rfl⟩ := h; exact hs
  | makeTable | buildTree => obtain ⟨-, rfl⟩ := h; exact hs
  | assignCodes => obtain ⟨-, l, -, rfl⟩ := h; exact hs
  | writeCode c => obtain ⟨-, -, -, rfl⟩ := h; rw [putBits_frame]; exact hs
  | decodeSym =>
    obtain ⟨-, -, j, p, hd, rfl⟩ := h
    exact readerInv_moveTo hs ((decodeReaches_le_avail hd).trans hav)

theorem readerInv_storeInLen (v : Word) {s : State} (h : ReaderInv s) : ReaderInv (storeInLen v s) := by
  obtain ⟨hwf, -, hpos⟩ := h
  refine ⟨hwf, ?_, hpos⟩
  rw [storeInLen_inLen, storeInLen_cfg, BitVec.toNat_ofNat]
  exact (Nat.mod_le _ _).trans (Nat.min_le_right _ _)

theorem readerInv_access {s : State} (a : Access) (h : ReaderInv s) : ReaderInv (access s a) :=
  access_keeps a h
    (replied := fun _ _ h => h)
    (dropped := h)
    (presented := fun _ _ => h)
    (cleared := fun v => by rw [writeStatus_frame]; exact h)
    (argStored := fun _ => h)
    (lenStored := fun v => readerInv_storeInLen v h)
    (byteStored := fun _ _ _ => h)

/-- Settles O50: IN_LEN is clamped when it is written, and a command that moves RD_POS leaves it at 0, within the
stream, or at the next multiple of 8, which 8 * IBUF_SIZE is. -/
theorem stepKeepsReaderBounds : Obligations.StepKeepsReaderBounds := by
  refine fun s t hs h => step_keeps (P := ReaderInv) ?turns ?raises ?completes ?accessed ?asserted ?released hs h
  case turns => exact fun _ _ h => h
  case raises => rintro c s t h ⟨e, -, rfl⟩; exact h
  case completes => exact fun _ s _ h => readerInv_of_completes (s := beginCommand s) h
  case accessed => exact fun a s h => readerInv_access (s := freshDraws s) a h
  case asserted => exact fun s h => readerInv_resetOf (cfg := s.cfg) h.1
  case released => exact fun _ h => h

/-! ### The writer (10_state.md R45, R47, R55; 41_bitstream.md R162, R168) -/

theorem bitPos_lt (o : BitOrder) {j : Nat} (hj : j < 8) : bitPos o j < 8 := by
  cases o <;> simp only [bitPos] <;> omega

theorem bitPos_inj (o : BitOrder) {i j : Nat} (hi : i < 8) (hj : j < 8) (h : bitPos o i = bitPos o j) : i = j := by
  cases o <;> simp only [bitPos] at h <;> omega

theorem getLsbD_setBit_ne (v : Byte) {i k : Nat} (hk : k < 8) (b : Bool) (h : k ≠ i) :
    (setBit v i b).getLsbD k = v.getLsbD k := by
  cases b <;> simp [setBit, hk, h]

/-- A writer that is not closed and has written nothing. -/
theorem writerInv_of_empty {s : State} (hwf : s.cfg.wf = true) (hout : s.outBytes = 0) (hacc : s.wrAcc = 0)
    (hopen : s.wrClosed = false) : WriterInv s := by
  refine ⟨hwf, ?_, fun _ _ _ => ?_, fun hc => absurd (hopen.symm.trans hc) (by decide), fun k hk => ?_⟩
  · rw [hout]; exact Nat.zero_le _
  · rw [hacc]; exact BitVec.getLsbD_zero
  · rw [hout] at hk; exact absurd hk (Nat.not_lt_zero k)

theorem writerInv_resetOf {cfg : Config} (h : cfg.wf = true) : WriterInv (State.resetOf cfg) :=
  writerInv_of_empty h rfl rfl rfl

/-- With a byte free, emitting a byte keeps the writer's invariant, whatever WR_ACC and WR_NBITS hold. -/
theorem writerInv_emitByte {s : State} (hwf : s.cfg.wf = true) (hroom : s.outBytes.toNat < s.cfg.obufSize)
    (hdef : ∀ k, k < s.outBytes.toNat → Cells.read s.obuf k ≠ none) : WriterInv (emitByte s) := by
  have hsize := config_bounds hwf
  have hout : (emitByte s).outBytes.toNat = s.outBytes.toNat + 1 := by
    rw [emitByte_outBytes, BitVec.toNat_ofNat]; omega
  refine ⟨hwf, ?_, fun _ _ _ => BitVec.getLsbD_zero, fun _ => rfl, fun k hk => ?_⟩
  · rw [hout]; exact hroom
  · rw [hout] at hk
    rw [emitByte_obuf, Cells.read_write]
    split
    · nofun
    · exact hdef k (by omega)

theorem writerInv_putBit {s : State} (b : Bool) (h : WriterInv s) (hopen : s.wrClosed = false)
    (hroom : s.wrNbits.toNat = 7 → s.outBytes.toNat < s.cfg.obufSize) : WriterInv (putBit b s) := by
  obtain ⟨hwf, hout, hacc, -, hdef⟩ := h
  by_cases h7 : s.wrNbits.toNat = 7
  · rw [putBit_emits b h7]
    exact writerInv_emitByte (s := { s with wrAcc := _ }) hwf (hroom h7) hdef
  · have hlt := s.wrNbits.isLt
    rw [putBit_keeps b h7]
    refine ⟨hwf, hout, fun j hj hle => ?_, fun hc => absurd (hopen.symm.trans hc) (by decide), hdef⟩
    rw [BitVec.toNat_ofNat] at hle
    have hj' : s.wrNbits.toNat < j := by omega
    have hne : bitPos s.cfg.bitOrder j ≠ bitPos s.cfg.bitOrder s.wrNbits.toNat :=
      fun he => absurd (bitPos_inj _ hj (by omega) he) (by omega)
    exact (getLsbD_setBit_ne _ (bitPos_lt _ hj) b hne).trans (hacc j hj hj'.le)

/-- The capacity check of a sequence covers its first bit, and after that bit the rest (41_bitstream.md R163). -/
theorem WriteFits.cons {b : Bool} {bits : List Bool} {s : State} (h : WriteFits (b :: bits) s) :
    (s.wrNbits.toNat = 7 → s.outBytes.toNat < s.cfg.obufSize) ∧ WriteFits bits (putBit b s) := by
  obtain ⟨hopen, hfit⟩ := h
  rw [List.length_cons] at hfit
  have hlt := s.wrNbits.isLt
  refine ⟨fun h7 => by omega, ?_⟩
  by_cases h7 : s.wrNbits.toNat = 7
  · rw [putBit_emits b h7]
    refine ⟨hopen, ?_⟩
    simp only [emitByte_outBytes, emitByte_wrNbits, emitByte_cfg, BitVec.ofNat_eq_ofNat, BitVec.toNat_ofNat]
    omega
  · rw [putBit_keeps b h7]
    refine ⟨hopen, ?_⟩
    simp only [BitVec.toNat_ofNat]
    omega

theorem writerInv_putBits {bits : List Bool} {s : State} (h : WriterInv s) (hfit : WriteFits bits s) :
    WriterInv (putBits bits s) := by
  induction bits generalizing s with
  | nil => exact h
  | cons b bits ih => exact ih (writerInv_putBit b h hfit.1 hfit.cons.1) hfit.cons.2

/-- FLUSH's effect leaves a byte boundary and the writer's invariant (41_bitstream.md R167). -/
theorem writerInv_flushed {s : State} (h : WriterInv s) (hroom : flushOverflows s = false) :
    WriterInv (flushed s) ∧ (flushed s).wrNbits = 0 := by
  obtain ⟨h0, he⟩ | ⟨hn, he⟩ := flushed_cases s
  · rw [he]; exact ⟨h, h0⟩
  · rw [he]
    obtain ⟨hwf, -, -, -, hdef⟩ := h
    have hlt : s.outBytes.toNat < s.cfg.obufSize := by
      simp only [flushOverflows, Bool.and_eq_false_iff, bne_eq_false_iff_eq, hn, decide_eq_false_iff_not,
        false_or] at hroom
      omega
    exact ⟨writerInv_emitByte hwf hlt hdef, rfl⟩

/-- Only the writer's own commands touch what the invariant speaks of: they append within their capacity check, pad to
a byte boundary, or start again from nothing. -/
theorem writerInv_of_completes {i : Instr} {s t : State} (hs : WriterInv s) (h : Completes i s t) :
    WriterInv t := by
  cases i with
  | nop | rdReset | rdAlign | clearHist => obtain rfl := h; exact hs
  | wrReset => obtain rfl := h; exact writerInv_of_empty hs.1 rfl rfl rfl
  | writeBit b | writeBits n => obtain ⟨hfit, rfl⟩ := h; exact writerInv_putBits hs hfit
  | flush => obtain ⟨hroom, rfl⟩ := h; exact (writerInv_flushed hs hroom).1
  | close =>
    obtain ⟨-, rfl⟩ | ⟨-, hroom, rfl⟩ := h
    · exact hs
    · obtain ⟨⟨hwf, hout, hacc, -, hdef⟩, h0⟩ := writerInv_flushed hs hroom
      exact ⟨hwf, hout, hacc, fun _ => h0, hdef⟩
  | readBits n | makeTable | buildTree => obtain ⟨-, rfl⟩ := h; exact hs
  | scanSym c => obtain ⟨-, -, rfl⟩ := h; exact hs
  | scanBuf => obtain ⟨-, -, rfl⟩ := h; rw [countSyms_frame]; exact hs
  | setBin c => obtain ⟨-, -, -, rfl⟩ := h; exact hs
  | assignCodes => obtain ⟨-, l, -, rfl⟩ := h; exact hs
  | writeCode c => obtain ⟨-, -, hfit, rfl⟩ := h; exact writerInv_putBits hs hfit
  | decodeSym => obtain ⟨-, -, j, p, -, rfl⟩ := h; exact hs

theorem writerInv_access {s : State} (a : Access) (h : WriterInv s) : WriterInv (access s a) := by
  rw [access_frame]; exact h

/-- Settles O49: every bit written goes through PutBit, which fills WR_ACC in order and emits it full, and no access
reaches the writer. -/
theorem stepKeepsWriterInvariant : Obligations.StepKeepsWriterInvariant := by
  refine fun s t hs h => step_keeps (P := WriterInv) ?turns ?raises ?completes ?accessed ?asserted ?released hs h
  case turns => exact fun _ _ h => h
  case raises => rintro c s t h ⟨e, -, rfl⟩; exact h
  case completes => exact fun _ s _ h => writerInv_of_completes (s := beginCommand s) h
  case accessed => exact fun a s h => writerInv_access (s := freshDraws s) a h
  case asserted => exact fun s h => writerInv_resetOf (cfg := s.cfg) h.1
  case released => exact fun _ h => h

end Sys2Proof.Machine
end

/-! PROOFS. Which command writes which register, array and flag (10_state.md), and what the host reads and writes:
STATUS, CONFIG, the operands, the cells without a value, and the reset values. -/

section
namespace Sys2Proof.Machine

/-! ### Who writes what (10_state.md R36-R55) -/

/-- Settles O12: an error writes the latch alone, and a completed command's effect is an update of the fields of its own
group, the writer's and SCAN_BUF's by their frames. -/
theorem onlyTheNamedCommandsWrite : Obligations.OnlyTheNamedCommandsWrite := by
  intro i s t h
  obtain ⟨e, -, rfl⟩ | h := exec_next h
  · simp
  cases i with
  | nop | wrReset | rdReset | rdAlign | clearHist => obtain rfl := h; simp
  | writeBit b | writeBits n => obtain ⟨-, rfl⟩ := h; rw [putBits_frame]; simp
  | flush => obtain ⟨-, rfl⟩ := h; rw [flushed_frame]; simp
  | close =>
    obtain ⟨-, rfl⟩ | ⟨-, -, rfl⟩ := h
    · simp
    · rw [flushed_frame]; simp
  | readBits n => obtain ⟨-, rfl⟩ := h; simp
  | scanSym c => obtain ⟨-, -, rfl⟩ := h; simp
  | scanBuf => obtain ⟨-, -, rfl⟩ := h; rw [countSyms_frame]; simp
  | setBin c => obtain ⟨-, -, -, rfl⟩ := h; simp
  | makeTable => obtain ⟨-, rfl⟩ := h; simp [tableMade]
  | buildTree => obtain ⟨-, rfl⟩ := h; simp [treeBuilt]
  | assignCodes => obtain ⟨-, l, -, rfl⟩ := h; simp [codesAssigned]
  | writeCode c => obtain ⟨-, -, -, rfl⟩ := h; rw [putBits_frame]; simp
  | decodeSym => obtain ⟨-, -, j, p, -, rfl⟩ := h; simp

/-- Settles O13: an error moves no flag, nor do the commands of the reader and, but for WR_RESET and CLOSE, those of the
writer; every other command sets and clears its own. -/
theorem flagSettersAndClearers : Obligations.FlagSettersAndClearers := by
  intro i s t h
  obtain ⟨e, -, rfl⟩ | h := exec_next h
  · simp +contextual
  cases i with
  | nop | wrReset | rdReset | rdAlign | clearHist => obtain rfl := h; simp +contextual
  | writeBit b | writeBits n => obtain ⟨-, rfl⟩ := h; rw [putBits_frame]; simp +contextual
  | flush => obtain ⟨-, rfl⟩ := h; rw [flushed_frame]; simp +contextual
  | close =>
    obtain ⟨-, rfl⟩ | ⟨-, -, rfl⟩ := h
    · simp +contextual
    · rw [flushed_frame]; simp +contextual
  | readBits n => obtain ⟨-, rfl⟩ := h; simp +contextual
  | scanSym c => obtain ⟨-, -, rfl⟩ := h; simp +contextual
  | scanBuf => obtain ⟨-, -, rfl⟩ := h; rw [countSyms_frame]; simp +contextual
  | setBin c => obtain ⟨-, -, -, rfl⟩ := h; simp +contextual
  | makeTable => obtain ⟨-, rfl⟩ := h; simp +contextual [tableMade]
  | buildTree => obtain ⟨-, rfl⟩ := h; simp +contextual [treeBuilt]
  | assignCodes => obtain ⟨-, l, -, rfl⟩ := h; simp +contextual [codesAssigned]
  | writeCode c => obtain ⟨-, -, -, rfl⟩ := h; rw [putBits_frame]; simp +contextual
  | decodeSym => obtain ⟨-, -, j, p, -, rfl⟩ := h; simp +contextual

/-! ### STATUS (10_state.md R36, R37) -/

theorem locate_status (cfg : Config) : locate cfg (0x0014 : BitVec 16).toNat = some .status := rfl

/-- Settles O39: the address of STATUS is served for all parameters, and the write is the two clears. -/
theorem statusWriteClears : Obligations.StatusWriteClears := by
  intro s v
  have hserved : served s.cfg 4 0x0014 = some .status := locate_status s.cfg
  rw [access, hserved]
  simp only [writeTarget, writeStatus]
  cases v.getLsbD 1 <;> cases v.getLsbD 2 <;> simp [clearError, clearDrop]

theorem ErrCode.code_le (e : ErrCode) : e.code.toNat ≤ 8 := by cases e <;> decide

/-- A word with a flag below it: the flag is bit 0. -/
theorem getLsbD_append_ofBool {w : Nat} (x : BitVec w) (b : Bool) (k : Nat) :
    (x ++ BitVec.ofBool b).getLsbD k = if k = 0 then b else x.getLsbD (k - 1) := by
  rw [BitVec.getLsbD_append]
  by_cases hk : k = 0
  · simp [hk]
  · simp [hk]

/-- Zeros above a word add no bit. -/
theorem getLsbD_zero_append {n w : Nat} (x : BitVec w) (k : Nat) : (0#n ++ x).getLsbD k = x.getLsbD k := by
  rw [BitVec.getLsbD_append]
  split
  · rfl
  · rw [BitVec.getLsbD_zero, BitVec.getLsbD_of_ge x k (by omega)]

/-- Bit k of STATUS: the eight flags from bit 0 on, then ERRCODE (10_state.md R36). -/
theorem statusWord_getLsbD (s : State) (k : Nat) :
    (statusWord s).getLsbD k =
      ([s.busy, s.err, s.drop, s.histValid, s.tableValid, s.treeValid, s.codesValid, s.wrClosed][k]?).getD
        (s.errcode.code.getLsbD (k - 8)) := by
  have happ : (statusWord s).getLsbD k =
      (0#16 ++ s.errcode.code ++ BitVec.ofBool s.wrClosed ++ BitVec.ofBool s.codesValid ++ BitVec.ofBool s.treeValid
        ++ BitVec.ofBool s.tableValid ++ BitVec.ofBool s.histValid ++ BitVec.ofBool s.drop ++ BitVec.ofBool s.err
        ++ BitVec.ofBool s.busy).getLsbD k := rfl
  rw [happ]
  simp only [getLsbD_append_ofBool]
  match k with
  | 0 | 1 | 2 | 3 | 4 | 5 | 6 | 7 => rfl
  | k + 8 => exact getLsbD_zero_append s.errcode.code k

/-- ERRCODE is the only byte above the flags. -/
theorem statusWord_getLsbD_add (s : State) (k : Nat) :
    (statusWord s).getLsbD (8 + k) = s.errcode.code.getLsbD k := by
  rw [statusWord_getLsbD, Nat.add_sub_cancel_left]
  simp [Nat.add_comm 8 k]

theorem statusWord_errcode (s : State) : (statusWord s).extractLsb' 8 8 = s.errcode.code := by
  refine BitVec.eq_of_getLsbD_eq fun k hk => ?_
  rw [BitVec.getLsbD_extractLsb', statusWord_getLsbD_add]
  simp [hk]

theorem statusWord_high (s : State) : (statusWord s).extractLsb' 16 16 = 0 := by
  refine BitVec.eq_of_getLsbD_eq fun k _ => ?_
  rw [BitVec.getLsbD_extractLsb', show 16 + k = 8 + (8 + k) by omega, statusWord_getLsbD_add,
    BitVec.getLsbD_of_ge _ _ (by omega)]
  simp

/-- Settles O40: the bits of the word one by one, and ERRCODE's code is at most 8. -/
theorem statusWordFields : Obligations.StatusWordFields := by
  intro s
  have hbit := statusWord_getLsbD s
  refine ⟨hbit 0, hbit 1, hbit 2, hbit 3, hbit 4, hbit 5, hbit 6, hbit 7, statusWord_errcode s, statusWord_high s, ?_⟩
  rw [statusWord_errcode]
  exact s.errcode.code_le

/-! ### CONFIG and the sizes (10_state.md R31, R33, R34) -/

/-- The bits of CONFIG: CNT_W in 5:0 and BIT_ORDER in 8 (10_state.md R33). -/
theorem configWord_toNat {cfg : Config} (h : cfg.wf = true) :
    (configWord cfg).toNat = cfg.cntW + if cfg.bitOrder = .lsbFirst then 256 else 0 := by
  have hw := config_bounds h
  cases ho : cfg.bitOrder <;> simp [configWord, ho] <;> omega

theorem extractLsb'_toNat_div (w : Word) (a n : Nat) : (w.extractLsb' a n).toNat = w.toNat / 2 ^ a % 2 ^ n := by
  rw [BitVec.extractLsb'_toNat, Nat.shiftRight_eq_div_pow]

/-- Settles O41: each register is a constant of the parameters, and a range of CONFIG is a quotient of its value. -/
theorem configReportsTheParameters : Obligations.ConfigReportsTheParameters := by
  intro s hwf
  obtain ⟨h1, h32, hi, hi', ho, ho'⟩ := config_bounds hwf
  have hread : ∀ g : Target, g.readableBusy = true → readData s g = readTarget s g := fun g hg => by
    simp [readData, hg]
  rw [hread .id rfl, hread .config rfl, hread .ibufSize rfl, hread .obufSize rfl]
  simp only [readTarget]
  have hcfg := configWord_toNat hwf
  refine ⟨rfl, ?_, ?_, ?_, ?_, ?_, ?_, ?_⟩
  · rw [extractLsb'_toNat_div, hcfg]; split <;> omega
  · refine BitVec.eq_of_toNat_eq ?_
    rw [extractLsb'_toNat_div, hcfg, BitVec.ofNat_eq_ofNat, BitVec.toNat_ofNat]; split <;> omega
  · rw [← BitVec.testBit_toNat, hcfg, Nat.testBit_eq_decide_div_mod_eq]
    refine decide_eq_decide.mpr ?_
    by_cases horder : s.cfg.bitOrder = .lsbFirst
    · simp only [horder, if_true, iff_true]; omega
    · simp only [horder, if_false, iff_false]; omega
  · refine BitVec.eq_of_toNat_eq ?_
    rw [extractLsb'_toNat_div, hcfg, BitVec.ofNat_eq_ofNat, BitVec.toNat_ofNat]; split <;> omega
  · rw [BitVec.toNat_ofNat]; omega
  · rw [BitVec.toNat_ofNat]; omega
  · intro hw hb his hos
    rw [configWord, hw, hb, his, hos]
    decide

/-! ### Operand writes and cells without a value in an idle block (10_state.md R38, R48, R54, R55, R59) -/

theorem readData_of_idle {s : State} (hidle : s.busy = false) (g : Target) : readData s g = readTarget s g := by
  simp [readData, hidle]

theorem operandWrite_of_idle {s : State} (hidle : s.busy = false) (stored : State) :
    operandWrite stored s = stored := by
  simp [operandWrite, hidle]

theorem countCell_of_none {s : State} {m : Cells Word} {k : Nat} (h : Cells.read m k = none) :
    (countCell s m k).toNat = (Config.freeWord (s.draws + k)).toNat % 2 ^ s.cfg.cntW := by
  rw [countCell, h]
  exact storeCount_toNat s.cfg (Config.freeWord _).isLt

theorem wordCell_of_none {s : State} {m : Cells Word} {k : Nat} (h : Cells.read m k = none) :
    wordCell s m k = Config.freeWord (s.draws + k) := by
  rw [wordCell, h]

theorem byteCell_of_none {s : State} {m : Cells Byte} {k : Nat} (h : Cells.read m k = none) (i : Nat) :
    byteCell s m k i = Config.freeByte (s.draws + i) := by
  rw [byteCell, h]

theorem byteCell_of_some {s : State} {m : Cells Byte} {k : Nat} {b : Byte} (h : Cells.read m k = some b) (i : Nat) :
    byteCell s m k i = b := by
  rw [byteCell, h]

/-- The low byte of a word, zero-extended. -/
theorem setWidth_setWidth_eq_and (v : Word) : (v.setWidth 8).setWidth 32 = v &&& 0xFF := by
  refine BitVec.eq_of_toNat_eq ?_
  rw [BitVec.toNat_setWidth, BitVec.toNat_setWidth, BitVec.toNat_and,
    show (0xFF : Word).toNat = 2 ^ 8 - 1 from rfl, Nat.and_two_pow_sub_one_eq_mod]
  omega

/-- Settles O43: in an idle block an operand write is its store, and the place reads back what was stored. -/
theorem idleOperandWritesStore : Obligations.IdleOperandWritesStore := by
  intro s v hidle hwf
  have hsize := config_bounds hwf
  have harg : writeTarget v s .arg = { s with arg := v } := operandWrite_of_idle hidle _
  have hlen : writeTarget v s .inLen = storeInLen v s := operandWrite_of_idle hidle _
  have hbyte : ∀ k, writeTarget v s (.ibuf k) = storeIbuf k v s := fun k => operandWrite_of_idle hidle _
  refine ⟨⟨harg, ?_⟩, ⟨?_, by rw [hlen]; rfl⟩, fun k => ⟨?_, fun i hi => ?_, by rw [hbyte]; rfl⟩⟩
  · rw [harg, readData_of_idle (s := { s with arg := v }) hidle, readTarget]
  · rw [hlen, readData_of_idle (s := storeInLen v s) hidle, readTarget, storeInLen_inLen,
      BitVec.toNat_setWidth, BitVec.toNat_ofNat]
    omega
  · rw [hbyte, readData_of_idle (s := storeIbuf k v s) hidle, readTarget, storeIbuf_ibuf,
      byteCell_of_some (Cells.read_write_same _ _ _), setWidth_setWidth_eq_and]
  · rw [hbyte, storeIbuf_ibuf, Cells.read_write_ne _ _ hi]

/-- OBUF reads free from OUT_BYTES on, whatever the array holds there (10_state.md R55, U4). -/
theorem obufCell_of_free {s : State} {k : Nat} (h : Cells.read s.obuf k = none ∨ s.outBytes.toNat ≤ k) :
    obufCell s k = Config.freeByte (s.draws + k) := by
  unfold obufCell
  split
  · exact byteCell_of_none (h.resolve_right (by omega)) k
  · rfl

/-- Settles O44: a place reads its cell, and a cell without a value is a free value of its kind. -/
theorem unspecifiedCellsReadFreeValues : Obligations.UnspecifiedCellsReadFreeValues := by
  intro s k hidle
  simp only [readData_of_idle hidle, readTarget]
  refine ⟨fun b hk hb => ?_, fun h => ?_, fun h => ?_, fun h => ?_, fun h => ?_, countCell_of_none, countCell_of_none,
    countCell_of_none, wordCell_of_none, wordCell_of_none⟩
  · rw [obufCell, if_pos hk, byteCell_of_some hb]
  · rw [obufCell_of_free h]
  all_goals rw [byteCell_of_none h]

/-! ### Reset (10_state.md R59; 70_reset_and_hazards.md R340, R341) -/

/-- The two turns of a reset (log entry 14). -/
theorem run_reset {s : State} {rest : List Turn} (h : s.turns = .assertReset :: .releaseReset :: rest) :
    Host.Core.run Sys2Proof.core 2 s
      = .next { State.resetOf s.cfg with turns := rest, draws := s.draws } := by
  have hstep : step s = .next (assertReset { s with turns := .releaseReset :: rest }) := by
    rw [step_eq, h]; rfl
  simp only [Host.Core.run, Sys2Proof.core, hstep]
  rfl

theorem statusWord_resetOf (cfg : Config) : statusWord (State.resetOf cfg) = 0 :=
  show statusWord State.reset = 0 by decide

/-- Settles O45: the state after the two turns is the reset state under the same parameters, with the turns
that are left. -/
theorem resetPutsTheListedValues : Obligations.ResetPutsTheListedValues :=
  fun s _ h => ⟨_, run_reset h, statusWord_resetOf s.cfg, rfl, rfl, rfl, rfl, rfl, rfl, rfl, rfl,
    rfl, rfl, rfl, rfl, rfl, rfl, rfl, rfl,
    fun _ => ⟨rfl, rfl, rfl, rfl, rfl, rfl, rfl, rfl, rfl⟩⟩

/-- At reset no validity flag is set, so the chain claims nothing. -/
theorem codesInv_resetOf {cfg : Config} (h : cfg.wf = true) : CodesInv (State.resetOf cfg) :=
  ⟨⟨⟨h, nofun, nofun, nofun, nofun, nofun⟩, nofun⟩, nofun⟩

/-- Settles O46: each invariant at reset is a lemma of its own. -/
theorem resetMeetsTheInvariants : Obligations.ResetMeetsTheInvariants :=
  ⟨rfl, rfl, fun cfg h => ⟨memWf_resetOf cfg, latchInv_resetOf cfg, writerInv_resetOf h, readerInv_resetOf h,
    codesInv_resetOf h⟩⟩

end Sys2Proof.Machine
end

/-! PROOFS. Every step keeps the validity chain up to the table (10_state.md R41, R51, R57): what the chain's steps are,
the histogram's sum, and the sorted table. -/

section
namespace Sys2Proof.Machine

/-! ### What a step does to the validity chain -/

/-- t differs from s only in places the validity chain does not speak of. -/
def ChainKept (s t : State) : Prop :=
  t = { s with
    pending := t.pending, err := t.err, drop := t.drop, wrClosed := t.wrClosed, errcode := t.errcode
    arg := t.arg, result := t.result, errCmd := t.errCmd, outBytes := t.outBytes, wrNbits := t.wrNbits
    wrAcc := t.wrAcc, inLen := t.inLen, rdPos := t.rdPos, ibuf := t.ibuf, obuf := t.obuf
    inReset := t.inReset, turns := t.turns, reply := t.reply }

/-- The commands that write HIST (42_frequency.md R205). -/
def HistWriter (i : Instr) : Prop := i = .clearHist ∨ i = .scanBuf ∨ ∃ c, i = .scanSym c ∨ i = .setBin c

theorem chainKept_putBits (bits : List Bool) (s : State) : ChainKept s (putBits bits s) := by
  rw [putBits_frame]; rfl

theorem chainKept_flushed (s : State) : ChainKept s (flushed s) := by
  rw [flushed_frame]; rfl

theorem chainKept_access (s : State) (a : Access) : ChainKept s (access s a) := by
  rw [access_frame]; rfl

/-- What a completed command does to the chain: nothing, or it writes HIST, the table, the tree or the codes. -/
theorem completes_chain {i : Instr} {s t : State} (h : Completes i s t) :
    ChainKept s t ∨ HistWriter i ∨ (s.histValid = true ∧ t = tableMade s) ∨ (s.tableValid = true ∧ t = treeBuilt s)
      ∨ (s.treeValid = true ∧ ∃ l, treeAssignments s = some l ∧ t = codesAssigned l s) := by
  cases i with
  | nop | wrReset | rdReset | rdAlign => obtain rfl := h; exact .inl rfl
  | writeBit b | writeBits n => obtain ⟨-, rfl⟩ := h; exact .inl (chainKept_putBits _ s)
  | flush => obtain ⟨-, rfl⟩ := h; exact .inl (chainKept_flushed s)
  | close =>
    obtain ⟨-, rfl⟩ | ⟨-, -, rfl⟩ := h
    · exact .inl rfl
    · rw [flushed_frame]; exact .inl rfl
  | readBits n => obtain ⟨-, rfl⟩ := h; exact .inl rfl
  | clearHist => exact .inr (.inl (.inl rfl))
  | scanSym c => exact .inr (.inl (.inr (.inr ⟨c, .inl rfl⟩)))
  | scanBuf => exact .inr (.inl (.inr (.inl rfl)))
  | setBin c => exact .inr (.inl (.inr (.inr ⟨c, .inr rfl⟩)))
  | makeTable => exact .inr (.inr (.inl h))
  | buildTree => exact .inr (.inr (.inr (.inl h)))
  | assignCodes => exact .inr (.inr (.inr (.inr h)))
  | writeCode c => obtain ⟨-, -, -, rfl⟩ := h; exact .inl (chainKept_putBits _ s)
  | decodeSym => obtain ⟨-, -, j, p, -, rfl⟩ := h; exact .inl rfl

/-- A property of the validity chain is kept by every step when it does not depend on the number of the next free value,
and reset and each of the commands that write a part of the chain keep it. -/
theorem chain_step_keeps {P : State → Prop}
    (kept : ∀ s t, P s → ChainKept s t → P t)
    (redrawn : ∀ s d, P s → P { s with draws := d })
    (histWritten : ∀ i s t, P s → HistWriter i → Completes i s t → P t)
    (table : ∀ s, P s → s.histValid = true → P (tableMade s))
    (tree : ∀ s, P s → s.tableValid = true → P (treeBuilt s))
    (codes : ∀ s l, P s → s.treeValid = true → treeAssignments s = some l → P (codesAssigned l s))
    (asserted : ∀ s, P s → P (assertReset s))
    {s t : State} (hs : P s) (h : step s = .next t) : P t := by
  have hbegin : ∀ s, P s → P (beginCommand s) := fun s h =>
    redrawn { s with pending := none } _ (kept s _ h rfl)
  refine step_keeps (P := P) ?turns ?raises ?completes ?accessed asserted ?released hs h
  case turns => exact fun s l h => kept s _ h rfl
  case raises => rintro c s t h ⟨e, -, rfl⟩; exact kept _ _ (hbegin s h) rfl
  case completes =>
    intro i s t h hc
    have hb := hbegin s h
    obtain hk | hw | ⟨hv, rfl⟩ | ⟨hv, rfl⟩ | ⟨hv, l, hl, rfl⟩ := completes_chain hc
    · exact kept _ _ hb hk
    · exact histWritten i _ _ hb hw hc
    · exact table _ hb hv
    · exact tree _ hb hv
    · exact codes _ l hb hv hl
  case accessed => exact fun a s h => kept _ _ (redrawn s _ h) (chainKept_access (freshDraws s) a)
  case released => exact fun s h => kept s _ h rfl

/-! ### Cells that hold a value -/

/-- A cell that holds a value reads the same in every state. -/
theorem countCell_eq {m : Cells Word} {k : Nat} (h : Cells.read m k ≠ none) (s t : State) :
    countCell s m k = countCell t m k := by
  obtain ⟨v, hv⟩ := Option.ne_none_iff_exists'.mp h
  simp only [countCell, hv]

theorem wordCell_eq {m : Cells Word} {k : Nat} (h : Cells.read m k ≠ none) (s t : State) :
    wordCell s m k = wordCell t m k := by
  obtain ⟨v, hv⟩ := Option.ne_none_iff_exists'.mp h
  simp only [wordCell, hv]

theorem byteCell_eq {m : Cells Byte} {k : Nat} (h : Cells.read m k ≠ none) (s t : State) (i : Nat) :
    byteCell s m k i = byteCell t m k i := by
  obtain ⟨v, hv⟩ := Option.ne_none_iff_exists'.mp h
  simp only [byteCell, hv]

theorem countCell_write (s : State) (m : Cells Word) (c : Nat) (v : Word) (k : Nat) :
    countCell s (Cells.write m c v) k = if k = c then v else countCell s m k := by
  unfold countCell
  rw [Cells.read_write]
  by_cases hk : k = c
  · rw [if_pos hk, if_pos hk]
  · rw [if_neg hk, if_neg hk]

theorem countCell_fill (s : State) {n k : Nat} (f : Nat → Word) (hk : k < n) :
    countCell s (Cells.fill n f) k = f k := by
  rw [countCell, Cells.read_fill, if_pos hk]

theorem wordCell_fill (s : State) {n k : Nat} (f : Nat → Word) (hk : k < n) :
    wordCell s (Cells.fill n f) k = f k := by
  rw [wordCell, Cells.read_fill, if_pos hk]

theorem byteCell_fill (s : State) {n k : Nat} (f : Nat → Byte) (hk : k < n) (i : Nat) :
    byteCell s (Cells.fill n f) k i = f k := by
  rw [byteCell, Cells.read_fill, if_pos hk]

theorem read_fill_ne_none {α : Type} {n k : Nat} (f : Nat → α) (hk : k < n) :
    Cells.read (Cells.fill n f) k ≠ none := by
  rw [Cells.read_fill, if_pos hk]; nofun

/-! ### Counts within CMAX -/

theorem cmax_lt {cfg : Config} (h : cfg.wf = true) : cfg.cmax < 2 ^ 32 := by
  obtain ⟨-, hw, -⟩ := config_bounds h
  have : 2 ^ cfg.cntW ≤ 2 ^ 32 := Nat.pow_le_pow_right (by decide) hw
  have := Nat.two_pow_pos cfg.cntW
  unfold Config.cmax; omega

/-- A count within CMAX is stored whole (00_scope.md R9, R19). -/
theorem storeCount_of_le {cfg : Config} (h : cfg.wf = true) {n : Nat} (hn : n ≤ cfg.cmax) :
    (storeCount cfg n).toNat = n := by
  rw [storeCount_toNat cfg (hn.trans_lt (cmax_lt h))]
  have := Nat.two_pow_pos cfg.cntW
  exact Nat.mod_eq_of_lt (by unfold Config.cmax at hn; omega)

/-! ### The histogram's sum (10_state.md R41) -/

/-- Every bin holds a value and the bins' sum is n. -/
def BinsSum (s : State) (n : Nat) : Prop :=
  (∀ k, k < nsym → Cells.read s.hist k ≠ none) ∧ ((List.range nsym).map (histCount s)).sum = n

theorem HistOk.binsSum {s : State} (h : HistOk s) : BinsSum s s.total.toNat := ⟨h.1, h.2.1⟩

theorem HistOk.total_le {s : State} (h : HistOk s) : s.total.toNat ≤ s.cfg.cmax := h.2.2

theorem histOk_iff (s : State) : HistOk s ↔ BinsSum s s.total.toNat ∧ s.total.toNat ≤ s.cfg.cmax := by
  simp only [HistOk, BinsSum, and_assoc]

/-- A sum over a range when one summand changes. -/
theorem sum_map_range_update {f g : Nat → Nat} {c n : Nat} (hc : c < n) (h : ∀ k, k ≠ c → g k = f k) :
    ((List.range n).map g).sum + f c = ((List.range n).map f).sum + g c := by
  induction n with
  | zero => exact absurd hc (Nat.not_lt_zero c)
  | succ n ih =>
    simp only [List.range_succ, List.map_append, List.map_singleton, List.sum_append, List.sum_singleton]
    by_cases hcn : c = n
    · subst hcn
      have hbelow : (List.range c).map g = (List.range c).map f :=
        List.map_congr_left fun k hk => h k (List.mem_range.mp hk).ne
      rw [hbelow]; omega
    · have := ih (by omega)
      rw [h n (Ne.symm hcn)]; omega

theorem histCount_le_of_binsSum {s : State} {n : Nat} (h : BinsSum s n) {c : Nat} (hc : c < nsym) :
    histCount s c ≤ n := by
  rw [← h.2]
  exact List.single_le_sum (fun _ _ => Nat.zero_le _) _ (List.mem_map_of_mem (List.mem_range.mpr hc))

/-- Setting a bin moves the sum by the difference (42_frequency.md R203). -/
theorem binsSum_write {s : State} {n : Nat} (h : BinsSum s n) {c : Nat} (hc : c < nsym) (v : Word) :
    BinsSum { s with hist := Cells.write s.hist c v } (n - histCount s c + v.toNat) := by
  obtain ⟨hdef, hsum⟩ := id h
  refine ⟨fun k hk => ?_, ?_⟩
  · rw [Cells.read_write]
    split
    · nofun
    · exact hdef k hk
  · have hcell : ∀ k, histCount { s with hist := Cells.write s.hist c v } k
        = if k = c then v.toNat else histCount s k := fun k => by
      rw [histCount, countCell_write, apply_ite BitVec.toNat]; rfl
    have hupd := sum_map_range_update (f := histCount s) hc fun k hk => (hcell k).trans (if_neg hk)
    have hle := histCount_le_of_binsSum h hc
    rw [hcell c, if_pos rfl] at hupd
    omega

/-- Counting one symbol more (42_frequency.md R201). -/
theorem binsSum_countSym {s : State} {n : Nat} (hwf : s.cfg.wf = true) (h : BinsSum s n) (hn : n + 1 ≤ s.cfg.cmax)
    (c : Byte) : BinsSum (countSym c s) (n + 1) := by
  have hle := histCount_le_of_binsSum h c.isLt
  have hw := binsSum_write h c.isLt (storeCount s.cfg (histCount s c.toNat + 1))
  rw [storeCount_of_le hwf (by omega), show n - histCount s c.toNat + (histCount s c.toNat + 1) = n + 1 by omega] at hw
  exact hw

theorem binsSum_countSyms (l : List Byte) {s : State} {n : Nat} (hwf : s.cfg.wf = true) (h : BinsSum s n)
    (hn : n + l.length ≤ s.cfg.cmax) : BinsSum (l.foldl (fun u c => countSym c u) s) (n + l.length) := by
  induction l generalizing s n with
  | nil => exact h
  | cons c l ih =>
    rw [List.length_cons] at hn ⊢
    rw [show n + (l.length + 1) = n + 1 + l.length by omega]
    exact ih (s := countSym c s) hwf (binsSum_countSym hwf h (by omega) c) (by rw [countSym_cfg]; omega)

/-- An all-zero histogram (42_frequency.md R200). -/
theorem binsSum_zero (s : State) : BinsSum { s with hist := Cells.fill nsym fun _ => 0 } 0 := by
  refine ⟨fun k hk => read_fill_ne_none _ hk, List.sum_eq_zero fun n hn => ?_⟩
  obtain ⟨k, hk, rfl⟩ := List.mem_map.mp hn
  rw [histCount, countCell_fill _ _ (List.mem_range.mp hk)]
  rfl

/-- Bins and a TOTAL that agree, within CMAX, make a histogram. -/
theorem histOk_of_binsSum {s : State} {n : Nat} (hwf : s.cfg.wf = true) (h : BinsSum s n) (hn : n ≤ s.cfg.cmax) :
    HistOk { s with total := storeCount s.cfg n } := by
  rw [histOk_iff]
  have htotal : (storeCount s.cfg n).toNat = n := storeCount_of_le hwf hn
  simp only [htotal]
  exact ⟨h, hn⟩

/-- The four HIST writers leave a histogram whose sum is TOTAL, and the three derived flags 0. -/
theorem histWriter_keeps {i : Instr} {s t : State} (hs : TableInv s) (hi : HistWriter i) (h : Completes i s t) :
    t.cfg = s.cfg ∧ t.tableValid = false ∧ t.treeValid = false ∧ t.codesValid = false ∧ HistOk t := by
  obtain ⟨hwf, -, -, -, hhist, -⟩ := hs
  obtain rfl | rfl | ⟨c, rfl | rfl⟩ := hi
  · obtain rfl := h
    exact ⟨rfl, rfl, rfl, rfl, (histOk_iff _).mpr ⟨binsSum_zero s, Nat.zero_le _⟩⟩
  · obtain ⟨hv, hmax, rfl⟩ := h
    have hbins := binsSum_countSyms (inputBytes s) hwf (hhist hv).binsSum
    rw [show (inputBytes s).length = s.inLen.toNat by simp [inputBytes]] at hbins
    have hbins := hbins hmax
    rw [countSyms_frame] at hbins ⊢
    exact ⟨rfl, rfl, rfl, rfl, histOk_of_binsSum hwf hbins hmax⟩
  · obtain ⟨hv, hmax, rfl⟩ := h
    exact ⟨rfl, rfl, rfl, rfl, histOk_of_binsSum (s := countSym c s) hwf
      (binsSum_countSym hwf (hhist hv).binsSum hmax c) hmax⟩
  · obtain ⟨hv, harg, hmax, rfl⟩ := h
    have hbins := binsSum_write (hhist hv).binsSum c.isLt (storeCount s.cfg s.arg.toNat)
    rw [storeCount_of_le hwf harg] at hbins
    exact ⟨rfl, rfl, rfl, rfl, histOk_of_binsSum (s := { s with hist := _ }) hwf hbins hmax⟩

end Sys2Proof.Machine
end

/-! PROOFS. MAKE_TABLE leaves the histogram's sorted pairs (42_frequency.md R204), and every step keeps the validity
chain up to the table (10_state.md R57). -/

section
namespace Sys2Proof.Machine

/-! ### The sort (42_frequency.md R204) -/

/-- The strict order of the table on pairs (count, symbol). -/
def EntryLt (a b : Nat × Nat) : Prop := a.1 < b.1 ∨ (a.1 = b.1 ∧ a.2 < b.2)

theorem entryLe_iff (a b : Nat × Nat) : entryLe a b = true ↔ a.1 < b.1 ∨ (a.1 = b.1 ∧ a.2 ≤ b.2) := by
  simp [entryLe]

theorem insertEntry_eq (e : Nat × Nat) (l : List (Nat × Nat)) :
    insertEntry e l = l.orderedInsert (fun a b => entryLe a b = true) e := by
  induction l with
  | nil => rfl
  | cons f l ih => rw [insertEntry, List.orderedInsert_cons, ih]

theorem sortEntries_eq (l : List (Nat × Nat)) :
    sortEntries l = l.insertionSort fun a b => entryLe a b = true := by
  induction l with
  | nil => rfl
  | cons e l ih => rw [sortEntries, List.insertionSort_cons, insertEntry_eq, ih]

theorem sortEntries_perm (l : List (Nat × Nat)) : (sortEntries l).Perm l := by
  rw [sortEntries_eq]; exact List.perm_insertionSort _ l

theorem sortEntries_pairwise (l : List (Nat × Nat)) : (sortEntries l).Pairwise fun a b => entryLe a b = true := by
  have : Std.Total fun a b : Nat × Nat => entryLe a b = true := ⟨fun a b => by simp only [entryLe_iff]; omega⟩
  have : IsTrans (Nat × Nat) fun a b => entryLe a b = true :=
    ⟨fun a b c => by simp only [entryLe_iff]; omega⟩
  rw [sortEntries_eq]
  exact List.pairwise_insertionSort _ l

/-! ### The pairs of the table -/

theorem mem_histEntries {s : State} {e : Nat × Nat} :
    e ∈ histEntries s ↔ e.2 < nsym ∧ e.1 = histCount s e.2 ∧ 1 ≤ e.1 := by
  simp only [histEntries, List.mem_filter, List.mem_map, List.mem_range, decide_eq_true_eq]
  constructor
  · rintro ⟨⟨k, hk, rfl⟩, h1⟩; exact ⟨hk, rfl, h1⟩
  · rintro ⟨hk, hc, h1⟩; exact ⟨⟨e.2, hk, by rw [← hc]⟩, h1⟩

theorem histEntries_nodup (s : State) : (histEntries s).Nodup := by
  refine List.Nodup.filter _ (List.Nodup.map (fun a b h => ?_) List.nodup_range)
  exact congrArg Prod.snd h

/-- The bins that are 0 add nothing to the sum. -/
theorem sum_filter_pos (l : List (Nat × Nat)) :
    ((l.filter fun e => decide (1 ≤ e.1)).map Prod.fst).sum = (l.map Prod.fst).sum := by
  induction l with
  | nil => rfl
  | cons e l ih =>
    rw [List.filter_cons]
    split
    · simp [ih]
    · rename_i h
      have h0 : e.1 = 0 := by simpa using h
      simp [ih, h0]

theorem histEntries_sum (s : State) : ((histEntries s).map Prod.fst).sum
    = ((List.range nsym).map (histCount s)).sum := by
  rw [histEntries, sum_filter_pos, List.map_map]; rfl

theorem mem_freqTable {s : State} {e : Nat × Nat} :
    e ∈ freqTable s ↔ e.2 < nsym ∧ e.1 = histCount s e.2 ∧ 1 ≤ e.1 :=
  ((sortEntries_perm _).mem_iff).trans mem_histEntries

theorem freqTable_length (s : State) : (freqTable s).length ≤ nsym := by
  rw [freqTable, (sortEntries_perm _).length_eq, histEntries]
  exact (List.length_filter_le _ _).trans (by simp)

theorem freqTable_sum (s : State) : ((freqTable s).map Prod.fst).sum = ((List.range nsym).map (histCount s)).sum := by
  rw [← histEntries_sum]
  exact ((sortEntries_perm _).map _).sum_eq

/-- The table's pairs rise strictly, as no symbol is in it twice. -/
theorem freqTable_pairwise (s : State) : (freqTable s).Pairwise EntryLt := by
  have hne : (freqTable s).Nodup := (sortEntries_perm _).nodup_iff.mpr (histEntries_nodup s)
  refine ((sortEntries_pairwise _).and hne).imp fun {a b} ⟨hle, hne⟩ => ?_
  rw [entryLe_iff] at hle
  have : a.1 = b.1 → a.2 ≠ b.2 := fun h1 h2 => hne (Prod.ext h1 h2)
  unfold EntryLt; omega

/-! ### The table MAKE_TABLE stores -/

theorem tableMade_nsyms (s : State) : (tableMade s).nsyms.toNat = (freqTable s).length := by
  have h : (tableMade s).nsyms = BitVec.ofNat 9 (freqTable s).length := by simp only [tableMade]
  have hlen : (freqTable s).length ≤ 256 := freqTable_length s
  rw [h, BitVec.toNat_ofNat]; omega

theorem tableMade_ftSym (s : State) :
    (tableMade s).ftSym = Cells.fill nsym fun i => BitVec.ofNat 8 ((freqTable s).getD i (0, 0)).2 := by
  simp only [tableMade]

/-- Every pair of the table, and the (0, 0) after it, fits its cells. -/
theorem freqTable_getD_bounds {s : State} (h : HistOk s) (i : Nat) :
    ((freqTable s).getD i (0, 0)).1 ≤ s.cfg.cmax ∧ ((freqTable s).getD i (0, 0)).2 < 256 := by
  rw [List.getD_eq_getElem?_getD]
  cases he : (freqTable s)[i]? with
  | none => exact ⟨Nat.zero_le _, by decide⟩
  | some e =>
    obtain ⟨hk, hc, -⟩ := mem_freqTable.mp (List.mem_of_getElem? he)
    have hle := histCount_le_of_binsSum h.binsSum hk
    exact ⟨by rw [Option.getD_some, hc]; exact hle.trans h.total_le, hk⟩

theorem ftCntAt_tableMade {s : State} (hwf : s.cfg.wf = true) (h : HistOk s) {i : Nat} (hi : i < nsym) :
    ftCntAt (tableMade s) i = ((freqTable s).getD i (0, 0)).1 := by
  rw [ftCntAt, tableMade_ftCnt, countCell_fill _ _ hi, storeCount_of_le hwf (freqTable_getD_bounds h i).1]

theorem ftSymAt_tableMade {s : State} (h : HistOk s) {i : Nat} (hi : i < nsym) :
    (ftSymAt (tableMade s) i).toNat = ((freqTable s).getD i (0, 0)).2 := by
  rw [ftSymAt, tableMade_ftSym, byteCell_fill _ _ hi, BitVec.toNat_ofNat]
  exact Nat.mod_eq_of_lt (freqTable_getD_bounds h i).2

/-- MAKE_TABLE leaves exactly the histogram's pairs (42_frequency.md R204, 10_state.md R51). -/
theorem tableOk_tableMade {s : State} (hwf : s.cfg.wf = true) (h : HistOk s) : TableOk (tableMade s) := by
  have hlen := freqTable_length s
  have hcnt : ∀ {i}, i < nsym → ftCntAt (tableMade s) i = ((freqTable s).getD i (0, 0)).1 := ftCntAt_tableMade hwf h
  have hsym : ∀ {i}, i < nsym → (ftSymAt (tableMade s) i).toNat = ((freqTable s).getD i (0, 0)).2 :=
    ftSymAt_tableMade h
  rw [TableOk, tableMade_nsyms]
  refine ⟨hlen, fun i hi => ?defined, fun i hi => ?counts, fun c hc => ?present, fun j hj i hi => ?rising, ?sum,
    fun i hi hni => ?rest⟩
  case defined =>
    rw [tableMade_ftSym, tableMade_ftCnt]
    exact ⟨read_fill_ne_none _ hi, read_fill_ne_none _ hi⟩
  case counts =>
    rw [hcnt (by omega), hsym (by omega), List.getD_eq_getElem _ _ hi]
    obtain ⟨-, hc, h1⟩ := mem_freqTable.mp (List.getElem_mem hi)
    exact ⟨h1, hc⟩
  case present =>
    have hmem : (histCount s c.toNat, c.toNat) ∈ freqTable s := mem_freqTable.mpr ⟨c.isLt, rfl, hc⟩
    obtain ⟨i, hi, he⟩ := List.getElem_of_mem hmem
    refine ⟨i, hi, BitVec.eq_of_toNat_eq ?_⟩
    rw [hsym (by omega), List.getD_eq_getElem _ _ hi, he]
  case rising =>
    have hlt := List.pairwise_iff_getElem.mp (freqTable_pairwise s) i j (by omega) hj hi
    rw [hcnt (by omega), hcnt (by omega), hsym (by omega), hsym (by omega), List.getD_eq_getElem _ _ hj,
      List.getD_eq_getElem _ _ (by omega)]
    exact hlt
  case sum =>
    refine Eq.trans ?_ ((freqTable_sum s).trans h.binsSum.2)
    congr 1
    refine List.ext_getElem (by simp) fun i hi _ => ?_
    have hi' : i < (freqTable s).length := by simpa using hi
    simp [hcnt (Nat.lt_of_lt_of_le hi' hlen), hi']
  case rest =>
    have hnone : (freqTable s).getD i (0, 0) = (0, 0) := List.getD_eq_default _ _ hni
    refine ⟨BitVec.eq_of_toNat_eq ?_, ?_⟩
    · rw [hsym hi, hnone]; rfl
    · rw [hcnt hi, hnone]

/-! ### The chain up to the table does not depend on the next free value -/

theorem histCount_redrawn {s : State} (h : HistOk s) (d : Nat) {k : Nat} (hk : k < nsym) :
    histCount { s with draws := d } k = histCount s k :=
  congrArg BitVec.toNat (countCell_eq (h.1 k hk) _ s)

theorem histOk_redrawn {s : State} (h : HistOk s) (d : Nat) : HistOk { s with draws := d } := by
  obtain ⟨hdef, hsum, hmax⟩ := id h
  refine ⟨hdef, Eq.trans ?_ hsum, hmax⟩
  exact congrArg List.sum (List.map_congr_left fun k hk => histCount_redrawn h d (List.mem_range.mp hk))

theorem TableOk.nsyms_le {s : State} (h : TableOk s) : s.nsyms.toNat ≤ 256 := h.1

theorem TableOk.cells_defined {s : State} (h : TableOk s) {i : Nat} (hi : i < nsym) :
    Cells.read s.ftSym i ≠ none ∧ Cells.read s.ftCnt i ≠ none := by
  obtain ⟨-, hdef, -⟩ := h
  exact hdef i hi

theorem ftSymAt_redrawn {s : State} (h : TableOk s) (d : Nat) {i : Nat} (hi : i < nsym) :
    ftSymAt { s with draws := d } i = ftSymAt s i :=
  byteCell_eq (h.cells_defined hi).1 _ s i

theorem ftCntAt_redrawn {s : State} (h : TableOk s) (d : Nat) {i : Nat} (hi : i < nsym) :
    ftCntAt { s with draws := d } i = ftCntAt s i :=
  congrArg BitVec.toNat (countCell_eq (h.cells_defined hi).2 _ s)

theorem tableOk_redrawn {s : State} (hh : HistOk s) (h : TableOk s) (d : Nat) : TableOk { s with draws := d } := by
  obtain ⟨hn, hdef, hcount, hpresent, hrising, hsum, hrest⟩ := id h
  have hcnt : ∀ {i}, i < nsym → ftCntAt { s with draws := d } i = ftCntAt s i := ftCntAt_redrawn h d
  have hsym : ∀ {i}, i < nsym → ftSymAt { s with draws := d } i = ftSymAt s i := ftSymAt_redrawn h d
  have hhist : ∀ c : Byte, histCount { s with draws := d } c.toNat = histCount s c.toNat :=
    fun c => histCount_redrawn hh d c.isLt
  refine ⟨hn, hdef, fun i hi => ?_, fun c hc => ?_, fun j hj i hi => ?_, ?_, fun i hi hni => ?_⟩
  · have hi' : i < nsym := hi.trans_le hn
    rw [hcnt hi', hsym hi', hhist]; exact hcount i hi
  · rw [hhist] at hc
    obtain ⟨i, hi, he⟩ := hpresent c hc
    exact ⟨i, hi, (hsym (hi.trans_le hn)).trans he⟩
  · have hj' : j < nsym := hj.trans_le hn
    rw [hcnt hj', hsym hj', hcnt (hi.trans hj'), hsym (hi.trans hj')]; exact hrising j hj i hi
  · refine Eq.trans ?_ hsum
    exact congrArg List.sum (List.map_congr_left fun i hi => hcnt ((List.mem_range.mp hi).trans_le hn))
  · rw [hcnt hi, hsym hi]; exact hrest i hi hni

theorem tableInv_redrawn {s : State} (h : TableInv s) (d : Nat) : TableInv { s with draws := d } := by
  obtain ⟨hwf, hth, hrt, hcr, hhist, htable⟩ := h
  exact ⟨hwf, hth, hrt, hcr, fun hv => histOk_redrawn (hhist hv) d,
    fun hv => tableOk_redrawn (hhist (hth hv)) (htable hv) d⟩

/-! ### Every step keeps the chain up to the table -/

theorem tableInv_histWriter {i : Instr} {s t : State} (hs : TableInv s) (hi : HistWriter i) (h : Completes i s t) :
    TableInv t := by
  obtain ⟨hcfg, htable, htree, hcodes, hok⟩ := histWriter_keeps hs hi h
  refine ⟨hcfg ▸ hs.1, ?_, ?_, ?_, fun _ => hok, ?_⟩
  · simp [htable]
  · simp [htree]
  · simp [hcodes]
  · simp [htable]

theorem tableInv_tableMade {s : State} (hs : TableInv s) (hv : s.histValid = true) : TableInv (tableMade s) := by
  obtain ⟨hwf, -, -, -, hhist, -⟩ := hs
  exact ⟨hwf, fun _ => hv, nofun, nofun, fun _ => hhist hv, fun _ => tableOk_tableMade hwf (hhist hv)⟩

theorem tableInv_treeBuilt {s : State} (hs : TableInv s) (hv : s.tableValid = true) : TableInv (treeBuilt s) := by
  obtain ⟨hwf, hth, -, -, hhist, htable⟩ := hs
  exact ⟨hwf, hth, fun _ => hv, nofun, hhist, htable⟩

theorem tableInv_codesAssigned {s : State} (l : List Assignment) (hs : TableInv s) (hv : s.treeValid = true) :
    TableInv (codesAssigned l s) := by
  obtain ⟨hwf, hth, hrt, -, hhist, htable⟩ := hs
  exact ⟨hwf, hth, hrt, fun _ => hv, hhist, htable⟩

theorem tableInv_assertReset {s : State} (h : TableInv s) : TableInv (assertReset s) :=
  ⟨h.1, nofun, nofun, nofun, nofun, nofun⟩

/-- Settles O51: the HIST writers move TOTAL with the bins and end the table's validity, MAKE_TABLE sorts the bins, and
nothing else writes either. -/
theorem stepKeepsTableInvariant : Obligations.StepKeepsTableInvariant := by
  refine fun s t hs h => chain_step_keeps (P := TableInv) ?kept ?redrawn ?histWritten ?table ?tree ?codes ?asserted hs h
  case kept => intro s t hs hk; rw [hk]; exact hs
  case redrawn => exact fun _ d h => tableInv_redrawn h d
  case histWritten => exact fun _ _ _ => tableInv_histWriter
  case table => exact fun _ => tableInv_tableMade
  case tree => exact fun _ => tableInv_treeBuilt
  case codes => exact fun _ l h hv _ => tableInv_codesAssigned l h hv
  case asserted => exact fun _ => tableInv_assertReset

end Sys2Proof.Machine
end

/-! PROOFS. BUILD_TREE builds a full binary tree over the table (43_tree.md R231, R233): what the merge loop keeps, the
words it is stored in, and the chain up to the tree, which every step keeps. -/

section
namespace Sys2Proof.Machine

/-! ### NODE_INFO words (43_tree.md R230) -/

theorem infoLeft_packInfo (leaf : Bool) (sym : Byte) (right left : Nat) (h : left < 512) :
    infoLeft (packInfo leaf sym right left) = left := by
  have : (packInfo leaf sym right left).extractLsb' 0 9 = BitVec.ofNat 9 left := BitVec.extractLsb'_append_eq_right
  rw [infoLeft, this, BitVec.toNat_ofNat]
  exact Nat.mod_eq_of_lt h

/-- The fields above LEFT, and those above RIGHT, as ranges of what stands there. -/
theorem extractLsb'_append_add {v w : Nat} (x : BitVec v) (y : BitVec w) (a n : Nat) :
    (x ++ y).extractLsb' (w + a) n = x.extractLsb' a n := by
  rw [BitVec.extractLsb'_append_eq_of_le (Nat.le_add_right w a), Nat.add_sub_cancel_left]

theorem infoRight_packInfo (leaf : Bool) (sym : Byte) (right left : Nat) (h : right < 512) :
    infoRight (packInfo leaf sym right left) = right := by
  have : (packInfo leaf sym right left).extractLsb' 9 9 = BitVec.ofNat 9 right :=
    (extractLsb'_append_add _ _ 0 9).trans BitVec.extractLsb'_append_eq_right
  rw [infoRight, this, BitVec.toNat_ofNat]
  exact Nat.mod_eq_of_lt h

theorem infoSym_packInfo (leaf : Bool) (sym : Byte) (right left : Nat) :
    infoSym (packInfo leaf sym right left) = sym :=
  (extractLsb'_append_add _ _ 9 8).trans <| (extractLsb'_append_add _ _ 0 8).trans BitVec.extractLsb'_append_eq_right

theorem infoLeaf_packInfo (leaf : Bool) (sym : Byte) (right left : Nat) :
    infoLeaf (packInfo leaf sym right left) = leaf := by
  have hword : infoLeaf (packInfo leaf sym right left)
      = (BitVec.ofBool leaf ++ 0#5 ++ sym ++ BitVec.ofNat 9 right ++ BitVec.ofNat 9 left).getLsbD 31 := rfl
  rw [hword]
  simp only [BitVec.getLsbD_append]
  cases leaf <;> rfl

/-! ### The merge loop (43_tree.md R231) -/

theorem minKey_mem (k : Key) (q : List Key) : minKey k q ∈ k :: q := by
  induction q generalizing k with
  | nil => exact List.mem_singleton_self k
  | cons e q ih =>
    rw [minKey]
    split
    · exact List.mem_cons_of_mem _ (ih e)
    · obtain h | h := List.mem_cons.mp (ih k)
      · rw [h]; exact List.mem_cons_self
      · exact List.mem_cons_of_mem _ (List.mem_cons_of_mem _ h)

/-- `argmin` takes one candidate out of Q. -/
theorem takeMin_perm {q q' : List Key} {a : Key} (h : takeMin q = some (a, q')) : q.Perm (a :: q') := by
  cases q with
  | nil => cases h
  | cons k q =>
    simp only [takeMin, Option.some.injEq, Prod.mk.injEq] at h
    obtain ⟨rfl, rfl⟩ := h
    exact List.perm_cons_erase (minKey_mem k q)

theorem takeMin_eq_none {q : List Key} (h : takeMin q = none) : q = [] := by
  cases q with
  | nil => rfl
  | cons k q => cases h

/-- The node that merging the candidates a and b makes. -/
def mergedNode (a b : Key) : TreeNode := ⟨a.1 + b.1, false, 0, a.2, b.2⟩

/-- The loop stops where no two candidates are left. -/
theorem mergeLoop_stops {fuel : Nat} {nodes : List TreeNode} {q : List Key}
    (h : takeMin q = none ∨ ∃ a q1, takeMin q = some (a, q1) ∧ takeMin q1 = none) :
    mergeLoop (fuel + 1) nodes q = nodes := by
  obtain h | ⟨a, q1, h1, h2⟩ := h
  · simp only [mergeLoop, h]
  · simp only [mergeLoop, h1, h2]

theorem mergeLoop_merges {fuel : Nat} {nodes : List TreeNode} {q q1 q2 : List Key} {a b : Key}
    (h1 : takeMin q = some (a, q1)) (h2 : takeMin q1 = some (b, q2)) :
    mergeLoop (fuel + 1) nodes q
      = mergeLoop fuel (nodes ++ [mergedNode a b]) (q2 ++ [(a.1 + b.1, nodes.length)]) := by
  simp only [mergeLoop, h1, h2, mergedNode]

/-- A property of the nodes and the candidates that every merge keeps holds at the end of the loop, where at most one
candidate is left. -/
theorem mergeLoop_keeps {P : List TreeNode → List Key → Prop}
    (merge : ∀ nodes q a q1 b q2, P nodes q → takeMin q = some (a, q1) → takeMin q1 = some (b, q2) →
      P (nodes ++ [mergedNode a b]) (q2 ++ [(a.1 + b.1, nodes.length)]))
    (fuel : Nat) {nodes : List TreeNode} {q : List Key} (hq : q.length ≤ fuel + 1) (h : P nodes q) :
    ∃ q', q'.length ≤ 1 ∧ P (mergeLoop fuel nodes q) q' := by
  induction fuel generalizing nodes q with
  | zero => exact ⟨q, hq, h⟩
  | succ fuel ih =>
    cases h1 : takeMin q with
    | none =>
      rw [mergeLoop_stops (.inl h1)]
      exact ⟨q, by rw [takeMin_eq_none h1]; exact Nat.zero_le 1, h⟩
    | some e1 =>
      obtain ⟨a, q1⟩ := e1
      have hlen1 := (takeMin_perm h1).length_eq
      cases h2 : takeMin q1 with
      | none =>
        rw [mergeLoop_stops (.inr ⟨a, q1, h1, h2⟩)]
        exact ⟨q, by rw [hlen1, takeMin_eq_none h2]; exact Nat.le_refl 1, h⟩
      | some e2 =>
        obtain ⟨b, q2⟩ := e2
        have hlen2 := (takeMin_perm h2).length_eq
        simp only [List.length_cons] at hlen1 hlen2
        rw [mergeLoop_merges h1 h2]
        refine ih ?_ (merge nodes q a q1 b q2 h h1 h2)
        simp only [List.length_append, List.length_singleton]
        omega

theorem getElem?_concat_iff {α : Type} {l : List α} {y x : α} {j : Nat} :
    (l ++ [y])[j]? = some x ↔ l[j]? = some x ∨ (j = l.length ∧ x = y) := by
  rw [List.getElem?_append]
  split
  · rename_i h
    simp [h.ne]
  · rename_i h
    rw [List.getElem?_singleton, List.getElem?_eq_none (by omega)]
    have : j - l.length = 0 ↔ j = l.length := by omega
    simp [this, eq_comm]

/-- Node j, made by a merge, has node k as a child; the first n nodes are the leaves. -/
def ParentOf (n : Nat) (nodes : List TreeNode) (k j : Nat) : Prop :=
  n ≤ j ∧ ∃ x, nodes[j]? = some x ∧ (x.left = k ∨ x.right = k)

/-- Node j is the merge of two nodes below it. -/
def IsMerge (nodes : List TreeNode) (j : Nat) (x : TreeNode) : Prop :=
  x.leaf = false ∧ x.sym = 0 ∧ x.left < j ∧ x.right < j ∧ x.left ≠ x.right
    ∧ ∃ a b, nodes[x.left]? = some a ∧ nodes[x.right]? = some b ∧ x.weight = a.weight + b.weight

/-- What the merge loop keeps over n leaves of weight `total`: the candidates are the nodes without a parent, and every
other node has one. -/
structure MergeInv (n total : Nat) (nodes : List TreeNode) (q : List Key) : Prop where
  size : nodes.length + q.length = 2 * n
  leaves : n ≤ nodes.length
  nonempty : q ≠ []
  keys : ∀ k ∈ q, ∃ x, nodes[k.2]? = some x ∧ x.weight = k.1
  distinct : (q.map Prod.snd).Nodup
  sum : (q.map Prod.fst).sum = total
  weights : ∀ x ∈ nodes, x.weight ≤ total
  inner : ∀ j x, n ≤ j → nodes[j]? = some x → IsMerge nodes j x
  unused : ∀ k ∈ q.map Prod.snd, ∀ j, ¬ ParentOf n nodes k j
  used : ∀ k, k < nodes.length → k ∉ q.map Prod.snd →
    ∃ j, ParentOf n nodes k j ∧ ∀ j', ParentOf n nodes k j' → j' = j

theorem MergeInv.perm {n total : Nat} {nodes : List TreeNode} {q q' : List Key} (h : MergeInv n total nodes q)
    (hp : q.Perm q') : MergeInv n total nodes q' where
  size := hp.length_eq ▸ h.size
  leaves := h.leaves
  nonempty := fun he => h.nonempty (by subst he; exact hp.eq_nil)
  keys := fun k hk => h.keys k (hp.mem_iff.mpr hk)
  distinct := (hp.map _).nodup_iff.mp h.distinct
  sum := (hp.map Prod.fst).sum_eq.symm.trans h.sum
  weights := h.weights
  inner := h.inner
  unused := fun k hk => h.unused k ((hp.map _).mem_iff.mpr hk)
  used := fun k hk hq => h.used k hk fun hm => hq ((hp.map _).mem_iff.mp hm)

theorem MergeInv.key_lt {n total : Nat} {nodes : List TreeNode} {q : List Key} (h : MergeInv n total nodes q)
    {k : Nat} (hk : k ∈ q.map Prod.snd) : k < nodes.length := by
  obtain ⟨e, he, rfl⟩ := List.mem_map.mp hk
  obtain ⟨x, hx, -⟩ := h.keys e he
  exact (List.getElem?_eq_some_iff.mp hx).1

theorem parentOf_concat {n : Nat} {nodes : List TreeNode} (hn : n ≤ nodes.length) {y : TreeNode} {k j : Nat} :
    ParentOf n (nodes ++ [y]) k j ↔ ParentOf n nodes k j ∨ (j = nodes.length ∧ (y.left = k ∨ y.right = k)) := by
  constructor
  · rintro ⟨hj, x, hx, hc⟩
    obtain hx | ⟨rfl, rfl⟩ := getElem?_concat_iff.mp hx
    · exact .inl ⟨hj, x, hx, hc⟩
    · exact .inr ⟨rfl, hc⟩
  · rintro (⟨hj, x, hx, hc⟩ | ⟨rfl, hc⟩)
    · exact ⟨hj, x, getElem?_concat_iff.mpr (.inl hx), hc⟩
    · exact ⟨hn, y, getElem?_concat_iff.mpr (.inr ⟨rfl, rfl⟩), hc⟩

theorem IsMerge.concat {nodes : List TreeNode} {j : Nat} {x : TreeNode} (h : IsMerge nodes j x) (y : TreeNode) :
    IsMerge (nodes ++ [y]) j x := by
  obtain ⟨hleaf, hsym, hl, hr, hne, a, b, ha, hb, hw⟩ := h
  exact ⟨hleaf, hsym, hl, hr, hne, a, b, getElem?_concat_iff.mpr (.inl ha), getElem?_concat_iff.mpr (.inl hb), hw⟩

/-- No node is yet a child's parent beyond the nodes there are. -/
theorem MergeInv.parentOf_lt {n total : Nat} {nodes : List TreeNode} {q : List Key} (h : MergeInv n total nodes q)
    {k j : Nat} (hp : ParentOf n nodes k j) : k < j ∧ j < nodes.length := by
  obtain ⟨hj, x, hx, hc⟩ := hp
  obtain ⟨-, -, hl, hr, -⟩ := h.inner j x hj hx
  exact ⟨by omega, (List.getElem?_eq_some_iff.mp hx).1⟩

/-- Merging two candidates gives each its one parent, and the new node none. -/
theorem MergeInv.merge {n total : Nat} {nodes : List TreeNode} {a b : Key} {q : List Key}
    (h : MergeInv n total nodes (a :: b :: q)) :
    MergeInv n total (nodes ++ [mergedNode a b]) (q ++ [(a.1 + b.1, nodes.length)]) := by
  have hlt := @h.key_lt
  obtain ⟨⟨hab, haq⟩, hbq, hq⟩ :
      (a.2 ≠ b.2 ∧ a.2 ∉ q.map Prod.snd) ∧ b.2 ∉ q.map Prod.snd ∧ (q.map Prod.snd).Nodup := by
    simpa only [List.map_cons, List.nodup_cons, List.mem_cons, not_or] using h.distinct
  have ha : a.2 ∈ (a :: b :: q).map Prod.snd := by simp
  have hb : b.2 ∈ (a :: b :: q).map Prod.snd := by simp
  have hsub : ∀ k ∈ q.map Prod.snd, k ∈ (a :: b :: q).map Prod.snd := fun k hk => by
    simp only [List.map_cons, List.mem_cons]; exact .inr (.inr hk)
  have hsum : a.1 + (b.1 + (q.map Prod.fst).sum) = total := by simpa using h.sum
  refine ⟨?size, ?leaves, by simp, ?keys, ?distinct, ?sum, ?weights, ?inner, ?unused, ?used⟩
  case size =>
    have := h.size
    simp only [List.length_append, List.length_cons, List.length_nil] at this ⊢; omega
  case leaves => rw [List.length_append]; exact h.leaves.trans (Nat.le_add_right _ _)
  case keys =>
    intro k hk
    obtain hk | hk := List.mem_append.mp hk
    · obtain ⟨x, hx, hw⟩ := h.keys k (List.mem_cons_of_mem _ (List.mem_cons_of_mem _ hk))
      exact ⟨x, getElem?_concat_iff.mpr (.inl hx), hw⟩
    · obtain rfl := List.mem_singleton.mp hk
      exact ⟨mergedNode a b, getElem?_concat_iff.mpr (.inr ⟨rfl, rfl⟩), rfl⟩
  case distinct =>
    rw [List.map_append, List.map_singleton, List.nodup_append]
    exact ⟨hq, List.nodup_singleton _, fun k hk m hm he => by
      have := hlt (hsub k hk)
      rw [List.mem_singleton] at hm
      omega⟩
  case sum => simp only [List.map_append, List.map_singleton, List.sum_append, List.sum_singleton]; omega
  case weights =>
    intro x hx
    obtain hx | hx := List.mem_append.mp hx
    · exact h.weights x hx
    · rw [List.mem_singleton.mp hx]; show a.1 + b.1 ≤ total; omega
  case inner =>
    intro j x hj hx
    obtain hx | ⟨rfl, rfl⟩ := getElem?_concat_iff.mp hx
    · exact (h.inner j x hj hx).concat _
    · obtain ⟨xa, hxa, hwa⟩ := h.keys a (by simp)
      obtain ⟨xb, hxb, hwb⟩ := h.keys b (by simp)
      exact ⟨rfl, rfl, hlt ha, hlt hb, hab, xa, xb, getElem?_concat_iff.mpr (.inl hxa),
        getElem?_concat_iff.mpr (.inl hxb), by rw [hwa, hwb]; rfl⟩
  case unused =>
    intro k hk j hp
    rw [List.map_append, List.map_singleton, List.mem_append, List.mem_singleton] at hk
    obtain hp | ⟨rfl, hc⟩ := (parentOf_concat h.leaves).mp hp
    · obtain hk | rfl := hk
      · exact h.unused k (hsub k hk) j hp
      · have := h.parentOf_lt hp; omega
    · have hc : a.2 = k ∨ b.2 = k := hc
      obtain hk | rfl := hk
      · obtain rfl | rfl := hc
        · exact haq hk
        · exact hbq hk
      · have := hlt ha
        have := hlt hb
        omega
  case used =>
    intro k hk hnq
    rw [List.map_append, List.map_singleton, List.mem_append, List.mem_singleton, not_or] at hnq
    rw [List.length_append, List.length_singleton] at hk
    by_cases hc : a.2 = k ∨ b.2 = k
    · have hmem : k ∈ (a :: b :: q).map Prod.snd := by
        obtain rfl | rfl := hc
        · exact ha
        · exact hb
      refine ⟨nodes.length, (parentOf_concat h.leaves).mpr (.inr ⟨rfl, hc⟩), fun j' hp => ?_⟩
      obtain hp | ⟨hj, -⟩ := (parentOf_concat h.leaves).mp hp
      · exact absurd hp (h.unused k hmem j')
      · exact hj
    · obtain ⟨j, hp, hu⟩ := h.used k (by omega) fun hm => by
        simp only [List.map_cons, List.mem_cons] at hm
        obtain hm | hm | hm := hm
        · exact hc (.inl hm.symm)
        · exact hc (.inr hm.symm)
        · exact hnq.1 hm
      refine ⟨j, (parentOf_concat h.leaves).mpr (.inl hp), fun j' hp' => ?_⟩
      obtain hp' | ⟨-, hc'⟩ := (parentOf_concat h.leaves).mp hp'
      · exact hu j' hp'
      · exact absurd hc' hc

/-- One pass of the loop. -/
theorem MergeInv.pass {n total : Nat} {nodes : List TreeNode} {q q1 q2 : List Key} {a b : Key}
    (h : MergeInv n total nodes q) (h1 : takeMin q = some (a, q1)) (h2 : takeMin q1 = some (b, q2)) :
    MergeInv n total (nodes ++ [mergedNode a b]) (q2 ++ [(a.1 + b.1, nodes.length)]) :=
  (h.perm ((takeMin_perm h1).trans ((takeMin_perm h2).cons a))).merge

/-! ### The tree BUILD_TREE stores -/

/-- The leaves in table order. -/
def leafNodes (s : State) : List TreeNode := (List.range s.nsyms.toNat).map (leafNode s)

theorem leafNodes_getElem? {s : State} {j : Nat} {x : TreeNode} :
    (leafNodes s)[j]? = some x ↔ j < s.nsyms.toNat ∧ x = leafNode s j := by
  rw [leafNodes, List.getElem?_map, Option.map_eq_some_iff]
  constructor
  · rintro ⟨i, hi, rfl⟩
    obtain ⟨hlt, rfl⟩ := List.getElem?_eq_some_iff.mp hi
    rw [List.length_range] at hlt
    exact ⟨hlt, by rw [List.getElem_range]⟩
  · rintro ⟨hj, rfl⟩
    exact ⟨j, List.getElem?_range hj, rfl⟩

/-- The candidates the loop starts with: one for each leaf. -/
def leafKeys (s : State) : List Key := (List.range s.nsyms.toNat).map fun i => (ftCntAt s i, i)

theorem builtNodes_eq (s : State) : builtNodes s = mergeLoop s.nsyms.toNat (leafNodes s) (leafKeys s) := by
  have hkeys : ((leafNodes s).zipIdx.map fun e => (e.1.weight, e.2)) = leafKeys s := by
    refine List.ext_getElem (by simp [leafNodes, leafKeys]) fun i _ _ => ?_
    simp [leafNodes, leafKeys, leafNode, ftCntAt]
  rw [← hkeys]
  rfl

/-- The loop only adds nodes. -/
theorem prefix_builtNodes (s : State) : leafNodes s <+: builtNodes s := by
  rw [builtNodes_eq]
  obtain ⟨-, -, h⟩ := mergeLoop_keeps (P := fun nodes _ => leafNodes s <+: nodes)
    (fun nodes q a q1 b q2 h _ _ => h.trans (List.prefix_append _ _)) s.nsyms.toNat
    (q := leafKeys s) (by simp [leafKeys]) (List.prefix_refl (leafNodes s))
  exact h

/-- The table's leaves, all of them candidates, before the first merge. -/
theorem mergeInv_leaves {s : State} (h : TableOk s) (hn : 1 ≤ s.nsyms.toNat) :
    MergeInv s.nsyms.toNat s.total.toNat (leafNodes s) (leafKeys s) := by
  obtain ⟨-, -, -, -, -, hsum, -⟩ := h
  have hlen : (leafNodes s).length = s.nsyms.toNat := by simp [leafNodes]
  have hindices : (leafKeys s).map Prod.snd = List.range s.nsyms.toNat := by simp [leafKeys, Function.comp_def]
  have hweights : (leafKeys s).map Prod.fst = (List.range s.nsyms.toNat).map (ftCntAt s) := by
    simp [leafKeys, Function.comp_def]
  have hlt : ∀ {j x}, (leafNodes s)[j]? = some x → j < s.nsyms.toNat := fun h => (leafNodes_getElem?.mp h).1
  refine ⟨?_, hlen.ge, ?_, ?_, ?_, ?_, ?_, fun j x hj hx => ?_, fun k _ j ⟨hj, x, hx, _⟩ => ?_, fun k hk hq => ?_⟩
  · rw [hlen]; simp [leafKeys]; omega
  · exact List.ne_nil_of_length_pos (by simp [leafKeys]; omega)
  · intro k hk
    obtain ⟨i, hi, rfl⟩ := List.mem_map.mp hk
    exact ⟨leafNode s i, leafNodes_getElem?.mpr ⟨List.mem_range.mp hi, rfl⟩, rfl⟩
  · rw [hindices]; exact List.nodup_range
  · rw [hweights]; exact hsum
  · intro x hx
    obtain ⟨i, hi, rfl⟩ := List.mem_map.mp hx
    rw [← hsum]
    exact List.single_le_sum (fun _ _ => Nat.zero_le _) _ (List.mem_map_of_mem hi)
  · exact absurd (hlt hx) (by omega)
  · exact absurd (hlt hx) (by omega)
  · rw [hindices, List.mem_range] at hq
    exact absurd (hlen ▸ hk) hq

/-- What BUILD_TREE makes of a table that is not empty: 2n - 1 nodes, the last the only one without a parent. -/
theorem mergeInv_builtNodes {s : State} (h : TableOk s) (hn : 1 ≤ s.nsyms.toNat) :
    (builtNodes s).length = 2 * s.nsyms.toNat - 1
      ∧ MergeInv s.nsyms.toNat s.total.toNat (builtNodes s) [(s.total.toNat, 2 * s.nsyms.toNat - 2)] := by
  obtain ⟨q, hq, hinv⟩ := mergeLoop_keeps (fun _ _ _ _ _ _ h => MergeInv.pass h) s.nsyms.toNat
    (by simp [leafKeys]) (mergeInv_leaves h hn)
  rw [← builtNodes_eq] at hinv
  obtain ⟨k, rfl⟩ : ∃ k, q = [k] :=
    List.length_eq_one_iff.mp (by have := List.length_pos_iff.mpr hinv.nonempty; omega)
  have hlen : (builtNodes s).length = 2 * s.nsyms.toNat - 1 := by
    have := hinv.size; simp only [List.length_singleton] at this; omega
  have hroot : 2 * s.nsyms.toNat - 2 = k.2 := by
    by_contra hne
    obtain ⟨j, hp, -⟩ := hinv.used (2 * s.nsyms.toNat - 2) (by omega) (by simpa using hne)
    have := hinv.parentOf_lt hp
    omega
  have hsum : k.1 = s.total.toNat := by simpa using hinv.sum
  exact ⟨hlen, by rw [hroot, show ((s.total.toNat, k.2) : Key) = k from Prod.ext hsum.symm rfl]; exact hinv⟩

theorem builtNodes_of_empty {s : State} (h : s.nsyms.toNat = 0) : builtNodes s = [] := by
  rw [builtNodes_eq, leafNodes, h]; rfl

theorem builtNodes_length {s : State} (h : TableOk s) : (builtNodes s).length = 2 * s.nsyms.toNat - 1 := by
  by_cases hn : s.nsyms.toNat = 0
  · rw [builtNodes_of_empty hn, hn]; rfl
  · exact (mergeInv_builtNodes h (by omega)).1

theorem builtNodes_leaf {s : State} {i : Nat} (hi : i < s.nsyms.toNat) :
    (builtNodes s)[i]? = some (leafNode s i) := by
  obtain ⟨hlt, he⟩ := List.getElem?_eq_some_iff.mp (leafNodes_getElem?.mpr ⟨hi, rfl⟩)
  rw [List.prefix_iff_getElem?.mp (prefix_builtNodes s) i hlt, he]

@[simp] theorem treeBuilt_nsyms (s : State) : (treeBuilt s).nsyms = s.nsyms := rfl
@[simp] theorem treeBuilt_total (s : State) : (treeBuilt s).total = s.total := rfl

theorem treeBuilt_nodeInfo (s : State) : (treeBuilt s).nodeInfo = Cells.fill maxNodes (builtInfo s) := by
  simp only [treeBuilt]

theorem nodeInfoAt_treeBuilt (s : State) {j : Nat} (hj : j < maxNodes) :
    nodeInfoAt (treeBuilt s) j = builtInfo s j := by
  rw [nodeInfoAt, treeBuilt_nodeInfo, wordCell_fill _ _ hj]

theorem nodeWeight_treeBuilt (s : State) {j : Nat} (hj : j < maxNodes) :
    nodeWeight (treeBuilt s) j = (builtWeight s j).toNat := by
  rw [nodeWeight, treeBuilt_nodeW, countCell_fill _ _ hj]

theorem treeBuilt_nnodes {s : State} (h : TableOk s) : (treeBuilt s).nnodes.toNat = 2 * s.nsyms.toNat - 1 := by
  have hn : s.nsyms.toNat ≤ 256 := h.nsyms_le
  have heq : (treeBuilt s).nnodes = BitVec.ofNat 10 (builtNodes s).length := by simp only [treeBuilt]
  rw [heq, builtNodes_length h, BitVec.toNat_ofNat]; omega

theorem treeBuilt_root {s : State} (h : TableOk s) :
    (treeBuilt s).root.toNat = if s.nsyms.toNat = 0 then nodeNone else 2 * s.nsyms.toNat - 2 := by
  have hn : s.nsyms.toNat ≤ 256 := h.nsyms_le
  have heq : (treeBuilt s).root
      = if s.nsyms = 0 then BitVec.ofNat 9 nodeNone else BitVec.ofNat 9 ((builtNodes s).length - 1) := by
    simp only [treeBuilt]
  rw [heq]
  by_cases h0 : s.nsyms = 0
  · rw [if_pos h0, if_pos (by rw [h0]; rfl)]; rfl
  · have h0' : s.nsyms.toNat ≠ 0 := fun he => h0 (BitVec.eq_of_toNat_eq he)
    rw [if_neg h0, if_neg h0', builtNodes_length h, BitVec.toNat_ofNat]; omega

/-- A node the loop made, as the tree stores it. -/
theorem treeBuilt_at {s : State} (hwf : s.cfg.wf = true) (hmax : s.total.toNat ≤ s.cfg.cmax) (h : TableOk s)
    {j : Nat} {x : TreeNode} (hx : (builtNodes s)[j]? = some x) :
    nodeInfoAt (treeBuilt s) j = packInfo x.leaf x.sym x.right x.left ∧ nodeWeight (treeBuilt s) j = x.weight := by
  have hlt := (List.getElem?_eq_some_iff.mp hx).1
  rw [builtNodes_length h] at hlt
  have hn : s.nsyms.toNat ≤ 256 := h.nsyms_le
  have hj : j < maxNodes := by unfold maxNodes; omega
  have hw : x.weight ≤ s.total.toNat :=
    (mergeInv_builtNodes h (by omega)).2.weights x (List.mem_of_getElem? hx)
  rw [nodeInfoAt_treeBuilt s hj, nodeWeight_treeBuilt s hj, builtInfo, builtWeight, hx]
  exact ⟨rfl, storeCount_of_le hwf (hw.trans hmax)⟩

/-- An internal node of the stored tree is the merge of its two children. -/
theorem treeBuilt_inner {s : State} (hwf : s.cfg.wf = true) (hmax : s.total.toNat ≤ s.cfg.cmax) (h : TableOk s)
    {j : Nat} (hj : j < 2 * s.nsyms.toNat - 1) (hnj : s.nsyms.toNat ≤ j) :
    ∃ x, (builtNodes s)[j]? = some x ∧ IsMerge (builtNodes s) j x
      ∧ leftOf (treeBuilt s) j = x.left ∧ rightOf (treeBuilt s) j = x.right := by
  have hn : s.nsyms.toNat ≤ 256 := h.nsyms_le
  obtain ⟨hlen, hinv⟩ := mergeInv_builtNodes h (by omega)
  have hx : (builtNodes s)[j]? = some (builtNodes s)[j] := List.getElem?_eq_getElem (by omega)
  have hmerge := hinv.inner j _ hnj hx
  obtain ⟨-, -, hl, hr, -⟩ := id hmerge
  obtain ⟨hinfo, -⟩ := treeBuilt_at hwf hmax h hx
  exact ⟨_, hx, hmerge, by rw [leftOf, hinfo, infoLeft_packInfo _ _ _ _ (by omega)],
    by rw [rightOf, hinfo, infoRight_packInfo _ _ _ _ (by omega)]⟩

/-- In the stored tree, a child's parents are its parents among the nodes. -/
theorem parentOf_builtNodes_iff {s : State} (hwf : s.cfg.wf = true) (hmax : s.total.toNat ≤ s.cfg.cmax)
    (h : TableOk s) (k j : Nat) :
    ParentOf s.nsyms.toNat (builtNodes s) k j ↔
      j < 2 * s.nsyms.toNat - 1 ∧ s.nsyms.toNat ≤ j
        ∧ (leftOf (treeBuilt s) j = k ∨ rightOf (treeBuilt s) j = k) := by
  constructor
  · rintro ⟨hnj, x, hx, hc⟩
    have hj := (List.getElem?_eq_some_iff.mp hx).1
    rw [builtNodes_length h] at hj
    obtain ⟨y, hy, -, hl, hr⟩ := treeBuilt_inner hwf hmax h hj hnj
    obtain rfl := Option.some.inj (hx.symm.trans hy)
    exact ⟨hj, hnj, by rw [hl, hr]; exact hc⟩
  · rintro ⟨hj, hnj, hc⟩
    obtain ⟨x, hx, -, hl, hr⟩ := treeBuilt_inner hwf hmax h hj hnj
    exact ⟨hnj, x, hx, by rw [← hl, ← hr]; exact hc⟩

/-- BUILD_TREE leaves a full binary tree over the table (43_tree.md R231, R233). -/
theorem treeOk_treeBuilt {s : State} (hwf : s.cfg.wf = true) (hmax : s.total.toNat ≤ s.cfg.cmax) (h : TableOk s) :
    TreeOk (treeBuilt s) := by
  have hat := @treeBuilt_at s hwf hmax h
  rw [TreeOk, treeBuilt_nsyms, treeBuilt_total]
  refine ⟨treeBuilt_nnodes h, treeBuilt_root h, fun j hj => ?defined, fun i hi => ?leaf, fun j hj hnj => ?inner,
    fun q hq => ?parent, fun hpos => ?rootWeight, fun j hj hnj => ?rest⟩
  case defined =>
    rw [treeBuilt_nodeW, treeBuilt_nodeInfo]
    exact ⟨read_fill_ne_none _ hj, read_fill_ne_none _ hj⟩
  case leaf =>
    rw [(hat (builtNodes_leaf hi)).1, (hat (builtNodes_leaf hi)).2]
    exact ⟨rfl, rfl⟩
  case inner =>
    obtain ⟨x, hx, ⟨hleaf, hsym, hl, hr, hne, a, b, ha, hb, hw⟩, hleft, hright⟩ :=
      treeBuilt_inner hwf hmax h hj hnj
    rw [hleft, hright, (hat hx).1, (hat hx).2, (hat ha).2, (hat hb).2, hleaf, hsym]
    exact ⟨rfl, hl, hr, hne, hw⟩
  case parent =>
    obtain ⟨hlen, hinv⟩ := mergeInv_builtNodes h (by omega)
    obtain ⟨j, hp, hu⟩ := hinv.used q (by omega) (by simp; omega)
    obtain ⟨hj, hnj, hc⟩ := (parentOf_builtNodes_iff hwf hmax h q j).mp hp
    exact ⟨j, hj, hnj, hc, fun j' hj' hnj' hc' =>
      hu j' ((parentOf_builtNodes_iff hwf hmax h q j').mpr ⟨hj', hnj', hc'⟩)⟩
  case rootWeight =>
    obtain ⟨x, hx, hw⟩ := (mergeInv_builtNodes h hpos).2.keys _ (List.mem_singleton_self _)
    rw [treeBuilt_root h, if_neg (by omega), (hat hx).2]
    exact hw
  case rest =>
    rw [treeBuilt_nnodes h] at hnj
    have hnone : (builtNodes s)[j]? = none := List.getElem?_eq_none (by rw [builtNodes_length h]; exact hnj)
    rw [nodeInfoAt_treeBuilt s hj, nodeWeight_treeBuilt s hj, builtInfo, builtWeight, hnone]
    exact ⟨rfl, rfl⟩

/-! ### The tree does not depend on the next free value -/

theorem TreeOk.cells_defined {s : State} (h : TreeOk s) {j : Nat} (hj : j < maxNodes) :
    Cells.read s.nodeW j ≠ none ∧ Cells.read s.nodeInfo j ≠ none := by
  obtain ⟨-, -, hdef, -⟩ := h
  exact hdef j hj

theorem nodeInfoAt_redrawn {s : State} (h : TreeOk s) (d : Nat) {j : Nat} (hj : j < maxNodes) :
    nodeInfoAt { s with draws := d } j = nodeInfoAt s j :=
  wordCell_eq (h.cells_defined hj).2 _ s

theorem nodeWeight_redrawn {s : State} (h : TreeOk s) (d : Nat) {j : Nat} (hj : j < maxNodes) :
    nodeWeight { s with draws := d } j = nodeWeight s j :=
  congrArg BitVec.toNat (countCell_eq (h.cells_defined hj).1 _ s)

theorem treeOk_redrawn {s : State} (ht : TableOk s) (h : TreeOk s) (d : Nat) : TreeOk { s with draws := d } := by
  obtain ⟨hnn, hroot, hdef, hleaf, hinner, hparent, hrootw, hrest⟩ := id h
  have hn : s.nsyms.toNat ≤ 256 := ht.nsyms_le
  have hm : maxNodes = 511 := rfl
  have hinfo : ∀ {j}, j < maxNodes → nodeInfoAt { s with draws := d } j = nodeInfoAt s j := nodeInfoAt_redrawn h d
  have hw : ∀ {j}, j < maxNodes → nodeWeight { s with draws := d } j = nodeWeight s j := nodeWeight_redrawn h d
  have hl : ∀ {j}, j < maxNodes → leftOf { s with draws := d } j = leftOf s j :=
    fun hj => congrArg infoLeft (hinfo hj)
  have hr : ∀ {j}, j < maxNodes → rightOf { s with draws := d } j = rightOf s j :=
    fun hj => congrArg infoRight (hinfo hj)
  refine ⟨hnn, hroot, hdef, fun i hi => ?leaf, fun j hj hnj => ?inner, fun q hq => ?parent, fun hpos => ?rootWeight,
    fun j hj hnj => ?rest⟩
  case leaf =>
    have hi' : i < s.nsyms.toNat := hi
    rw [hinfo (by omega), hw (by omega), ftSymAt_redrawn ht d (hi'.trans_le hn), ftCntAt_redrawn ht d (hi'.trans_le hn)]
    exact hleaf i hi
  case inner =>
    have hj' : j < maxNodes := by have : j < 2 * s.nsyms.toNat - 1 := hj; omega
    obtain ⟨-, hlj, hrj, -⟩ := hinner j hj hnj
    rw [hinfo hj', hw hj', hl hj', hr hj', hw (hlj.trans hj'), hw (hrj.trans hj')]
    exact hinner j hj hnj
  case parent =>
    have hlt : ∀ {j}, j < 2 * s.nsyms.toNat - 1 → j < maxNodes := fun hj => by omega
    obtain ⟨j, hj, hnj, hc, hu⟩ := hparent q hq
    refine ⟨j, hj, hnj, by rw [hl (hlt hj), hr (hlt hj)]; exact hc, fun j' hj' hnj' hc' => hu j' hj' hnj' ?_⟩
    rw [hl (hlt hj'), hr (hlt hj')] at hc'
    exact hc'
  case rootWeight =>
    have hpos' : s.nsyms.toNat ≠ 0 := by have : 1 ≤ s.nsyms.toNat := hpos; omega
    rw [if_neg hpos'] at hroot
    refine Eq.trans (hw ?_) (hrootw hpos)
    show s.root.toNat < maxNodes
    omega
  case rest => rw [hinfo hj, hw hj]; exact hrest j hj hnj

/-! ### Every step keeps the chain up to the tree -/

theorem treeInv_redrawn {s : State} (h : TreeInv s) (d : Nat) : TreeInv { s with draws := d } := by
  obtain ⟨htable, htree⟩ := h
  obtain ⟨-, -, hrt, -, -, hok⟩ := id htable
  exact ⟨tableInv_redrawn htable d, fun hv => treeOk_redrawn (hok (hrt hv)) (htree hv) d⟩

theorem treeInv_histWriter {i : Instr} {s t : State} (hs : TreeInv s) (hi : HistWriter i) (h : Completes i s t) :
    TreeInv t := by
  obtain ⟨-, -, htree, -⟩ := histWriter_keeps hs.1 hi h
  exact ⟨tableInv_histWriter hs.1 hi h, fun hv => absurd (htree.symm.trans hv) (by decide)⟩

theorem treeInv_treeBuilt {s : State} (hs : TableInv s) (hv : s.tableValid = true) : TreeInv (treeBuilt s) := by
  obtain ⟨hwf, hth, -, -, hhist, htable⟩ := id hs
  exact ⟨tableInv_treeBuilt hs hv, fun _ => treeOk_treeBuilt hwf (hhist (hth hv)).total_le (htable hv)⟩

/-- Settles O52: BUILD_TREE makes the tree, whatever writes the table or HIST ends its validity, and nothing else writes
what it stands on. -/
theorem stepKeepsTreeInvariant : Obligations.StepKeepsTreeInvariant := by
  refine fun s t hs h => chain_step_keeps (P := TreeInv) ?kept ?redrawn ?histWritten ?table ?tree ?codes ?asserted hs h
  case kept => intro s t hs hk; rw [hk]; exact hs
  case redrawn => exact fun _ d h => treeInv_redrawn h d
  case histWritten => exact fun _ _ _ => treeInv_histWriter
  case table => exact fun _ h hv => ⟨tableInv_tableMade h.1 hv, nofun⟩
  case tree => exact fun _ h hv => treeInv_treeBuilt h.1 hv
  case codes => exact fun _ l h hv _ => ⟨tableInv_codesAssigned l h.1 hv, h.2⟩
  case asserted => exact fun _ h => ⟨tableInv_assertReset h.1, nofun⟩

end Sys2Proof.Machine
end

/-! PROOFS. ASSIGN_CODES gives every symbol of the table its path in the tree (44_codes.md R250-R254), and every step
keeps the whole validity chain (10_state.md R57). -/

section
namespace Sys2Proof.Machine

/-! ### Bit sequences as numbers (41_bitstream.md R171) -/

theorem bitsToNat_concat (bits : List Bool) (b : Bool) : bitsToNat (bits ++ [b]) = 2 * bitsToNat bits + b.toNat := by
  simp [bitsToNat]

/-- Bit m of the number is the m-th bit of the sequence from its end. -/
theorem testBit_bitsToNat_reverse (bits : List Bool) (m : Nat) :
    (bitsToNat bits.reverse).testBit m = bits.getD m false := by
  induction bits generalizing m with
  | nil => simp [bitsToNat]
  | cons b bits ih =>
    rw [List.reverse_cons, bitsToNat_concat]
    cases m with
    | zero => cases b <;> simp
    | succ m =>
      rw [Nat.testBit_succ, show (2 * bitsToNat bits.reverse + b.toNat) / 2 = bitsToNat bits.reverse by
        cases b <;> simp; omega, ih, List.getD_cons_succ]

/-- Code bit m of a word stands at bit 31 - m (10_state.md R53). -/
theorem codeWord_getLsbD (code : List Bool) (w : Nat) {m : Nat} (hm : m < 32) :
    (codeWord code w).getLsbD (31 - m) = code.getD (32 * w + m) false := by
  have hrev := testBit_bitsToNat_reverse ((List.range 32).map fun i => code.getD (32 * w + i) false).reverse (31 - m)
  rw [List.reverse_reverse] at hrev
  rw [codeWord, BitVec.getLsbD_ofNat, hrev, List.getD_eq_getElem?_getD, List.getElem?_reverse (by simp; omega)]
  have : 32 - 1 - (31 - m) = m := by omega
  simp [this, hm]
  omega

/-! ### Paths in NODE_INFO (44_codes.md R251) -/

theorem follow_of_leaf {info : Nat → Word} {j : Nat} (h : infoLeaf (info j) = true) {p : List Bool} {i : Nat} :
    follow info j p = some i ↔ p = [] ∧ i = j := by
  cases p with
  | nil => simp [follow, eq_comm]
  | cons b p => simp [follow, h]

theorem follow_cons_of_inner {info : Nat → Word} {j : Nat} (h : infoLeaf (info j) = false) (b : Bool)
    (p : List Bool) : follow info j (b :: p) = follow info (infoChild (info j) b) p := by
  rw [follow, if_neg (by simp [h])]

theorem follow_append {info : Nat → Word} {j i : Nat} {p : List Bool} (h : follow info j p = some i) (q : List Bool) :
    follow info j (p ++ q) = follow info i q := by
  induction p generalizing j with
  | nil => rw [Option.some.inj h]; rfl
  | cons b p ih =>
    rw [follow] at h
    split at h
    · cases h
    · rename_i hleaf
      rw [List.cons_append, follow_cons_of_inner (by simpa using hleaf), ih h]

/-- The walk assigns exactly the paths to leaves, each to its leaf's symbol (44_codes.md R251). -/
theorem mem_walk_iff {info : Nat → Word} {depth j : Nat} {p : List Bool} {l : List Assignment}
    (h : walk info depth j p = some l) (e : Assignment) :
    e ∈ l ↔ ∃ r i, follow info j r = some i ∧ infoLeaf (info i) = true ∧ e = (infoSym (info i), p ++ r) := by
  induction depth generalizing j p l with
  | zero => cases h
  | succ depth ih =>
    rw [walk] at h
    cases hleaf : infoLeaf (info j) with
    | true =>
      rw [if_pos hleaf] at h
      obtain rfl := Option.some.inj h
      rw [List.mem_singleton]
      constructor
      · rintro rfl
        exact ⟨[], j, rfl, hleaf, by rw [List.append_nil]⟩
      · rintro ⟨r, i, hf, -, rfl⟩
        obtain ⟨rfl, rfl⟩ := (follow_of_leaf hleaf).mp hf
        rw [List.append_nil]
    | false =>
      rw [if_neg (by simp [hleaf])] at h
      split at h
      case h_2 => cases h
      case h_1 l0 l1 h0 h1 =>
        obtain rfl := Option.some.inj h
        rw [List.mem_append, ih h0, ih h1]
        constructor
        · rintro (⟨r, i, hf, hi, rfl⟩ | ⟨r, i, hf, hi, rfl⟩)
          · exact ⟨false :: r, i, (follow_cons_of_inner hleaf false r).trans hf, hi, by simp⟩
          · exact ⟨true :: r, i, (follow_cons_of_inner hleaf true r).trans hf, hi, by simp⟩
        · rintro ⟨r, i, hf, hi, rfl⟩
          cases r with
          | nil => rw [Option.some.inj hf] at hleaf; rw [hi] at hleaf; cases hleaf
          | cons b r =>
            rw [follow_cons_of_inner hleaf] at hf
            cases b with
            | false => exact .inl ⟨r, i, hf, hi, by simp⟩
            | true => exact .inr ⟨r, i, hf, hi, by simp⟩

/-- The last assignment to a symbol is its code. -/
theorem codeOf_cases (l : List Assignment) (c : Byte) :
    (codeOf l c = [] ∧ ∀ e ∈ l, e.1 ≠ c) ∨ ∃ e ∈ l, e.1 = c ∧ codeOf l c = e.2 := by
  induction l using List.reverseRecOn with
  | nil => exact .inl ⟨rfl, nofun⟩
  | append_singleton l e ih =>
    have hcode : codeOf (l ++ [e]) c = if e.1 = c then e.2 else codeOf l c := by simp [codeOf]
    by_cases he : e.1 = c
    · exact .inr ⟨e, by simp, he, by rw [hcode, if_pos he]⟩
    · rw [hcode, if_neg he]
      obtain ⟨hnil, hne⟩ | ⟨f, hf, hfc, hcf⟩ := ih
      · refine .inl ⟨hnil, fun f hf => ?_⟩
        obtain hf | hf := List.mem_append.mp hf
        · exact hne f hf
        · rw [List.mem_singleton.mp hf]; exact he
      · exact .inr ⟨f, List.mem_append_left _ hf, hfc, hcf⟩

/-! ### The paths of a tree over the table -/

section Tree

variable {s : State}

theorem TreeOk.leaf (h : TreeOk s) {i : Nat} (hi : i < s.nsyms.toNat) :
    infoLeaf (nodeInfoAt s i) = true ∧ infoSym (nodeInfoAt s i) = ftSymAt s i := by
  obtain ⟨-, -, -, hleaf, -⟩ := h
  rw [(hleaf i hi).1]
  exact ⟨infoLeaf_packInfo _ _ _ _, infoSym_packInfo _ _ _ _⟩

theorem TreeOk.inner (h : TreeOk s) {j : Nat} (hj : j < 2 * s.nsyms.toNat - 1) (hnj : s.nsyms.toNat ≤ j) :
    infoLeaf (nodeInfoAt s j) = false ∧ ∀ b, infoChild (nodeInfoAt s j) b < j := by
  obtain ⟨-, -, -, -, hinner, -⟩ := h
  obtain ⟨hinfo, hl, hr, -⟩ := hinner j hj hnj
  refine ⟨by rw [hinfo]; exact infoLeaf_packInfo _ _ _ _, fun b => ?_⟩
  cases b
  · exact hl
  · exact hr

theorem TreeOk.infoLeaf_iff (h : TreeOk s) {j : Nat} (hj : j < 2 * s.nsyms.toNat - 1) :
    infoLeaf (nodeInfoAt s j) = true ↔ j < s.nsyms.toNat := by
  refine ⟨fun hleaf => ?_, fun hlt => (h.leaf hlt).1⟩
  by_contra hge
  rw [(h.inner hj (by omega)).1] at hleaf
  cases hleaf

theorem TreeOk.root_eq (h : TreeOk s) (hn : 1 ≤ s.nsyms.toNat) : s.root.toNat = 2 * s.nsyms.toNat - 2 := by
  obtain ⟨-, hroot, -⟩ := h
  rw [hroot, if_neg (by omega)]

/-- A path stays in the tree, and each of its steps goes to a smaller node, from an internal one. -/
theorem TreeOk.follow_bounds (h : TreeOk s) {j i : Nat} {p : List Bool} (hj : j < 2 * s.nsyms.toNat - 1)
    (hp : follow (nodeInfoAt s) j p = some i) : i < 2 * s.nsyms.toNat - 1 ∧ p.length ≤ j + 1 - s.nsyms.toNat := by
  induction p generalizing j with
  | nil => rw [← Option.some.inj hp]; exact ⟨hj, Nat.zero_le _⟩
  | cons b p ih =>
    cases hleaf : infoLeaf (nodeInfoAt s j) with
    | true => exact absurd ((follow_of_leaf hleaf).mp hp).1 (by simp)
    | false =>
      have hnj : ¬ j < s.nsyms.toNat := fun hlt => by rw [(h.leaf hlt).1] at hleaf; cases hleaf
      have hchild := (h.inner hj (by omega)).2 b
      rw [follow_cons_of_inner hleaf] at hp
      obtain ⟨hi, hlen⟩ := ih (by omega) hp
      exact ⟨hi, by rw [List.length_cons]; omega⟩

/-- Every node lies on a path from the root: it is the root, or its parent, which is above it, lies on one. -/
theorem TreeOk.exists_follow (h : TreeOk s) {k : Nat} (hk : k < 2 * s.nsyms.toNat - 1) :
    ∃ p, follow (nodeInfoAt s) s.root.toNat p = some k := by
  have hroot := h.root_eq (by omega)
  obtain ⟨-, -, -, -, -, hparent, -⟩ := id h
  induction hd : 2 * s.nsyms.toNat - 2 - k using Nat.strong_induction_on generalizing k with
  | _ d ih =>
    by_cases hkr : k = 2 * s.nsyms.toNat - 2
    · exact ⟨[], by rw [follow, hroot, hkr]⟩
    · obtain ⟨j, hj, hnj, hc, -⟩ := hparent k (by omega)
      obtain ⟨hleaf, hchild⟩ := h.inner hj hnj
      obtain ⟨b, hb⟩ : ∃ b, infoChild (nodeInfoAt s j) b = k :=
        hc.elim (fun he => ⟨false, he⟩) fun he => ⟨true, he⟩
      have hkj : k < j := hb ▸ hchild b
      obtain ⟨p, hp⟩ := ih _ (by omega) hj rfl
      refine ⟨p ++ [b], ?_⟩
      rw [follow_append hp, follow_cons_of_inner hleaf, hb, follow]

/-- No symbol is in the table twice. -/
theorem TableOk.ftSymAt_inj (h : TableOk s) {i j : Nat} (hi : i < s.nsyms.toNat) (hj : j < s.nsyms.toNat)
    (he : ftSymAt s i = ftSymAt s j) : i = j := by
  obtain ⟨-, -, hcount, -, hrising, -, -⟩ := h
  have hsame : ftCntAt s i = ftCntAt s j := by rw [(hcount i hi).2, (hcount j hj).2, he]
  have hne : ∀ {a b}, a < b → b < s.nsyms.toNat → ftCntAt s a = ftCntAt s b → ftSymAt s a ≠ ftSymAt s b :=
    fun hab hb hc hs => by
      have := hrising _ hb _ hab
      rw [hs] at this
      omega
  obtain hlt | rfl | hgt := Nat.lt_trichotomy i j
  · exact absurd he (hne hlt hj hsame)
  · rfl
  · exact absurd he.symm (hne hgt hi hsame.symm)

/-- The three forms of the assignments (44_codes.md R251, R253): none, "0" for a single leaf, and the walk. -/
theorem treeAssignments_cases (h : TreeOk s) {l : List Assignment} (hl : treeAssignments s = some l) :
    (s.nsyms.toNat = 0 ∧ l = []) ∨ (s.nsyms.toNat = 1 ∧ l = [(ftSymAt s 0, [false])])
      ∨ (2 ≤ s.nsyms.toNat ∧ walk (nodeInfoAt s) maxNodes s.root.toNat [] = some l) := by
  obtain ⟨hnn, -⟩ := id h
  unfold treeAssignments at hl
  by_cases h0 : s.nsyms.toNat = 0
  · rw [if_pos (BitVec.eq_of_toNat_eq (by rw [hnn, h0]; rfl))] at hl
    exact .inl ⟨h0, (Option.some.inj hl).symm⟩
  · have hroot := h.root_eq (by omega)
    have hne : s.nnodes ≠ 0 := fun he => by rw [he] at hnn; simp at hnn; omega
    rw [if_neg hne] at hl
    by_cases h1 : s.nsyms.toNat = 1
    · have hr0 : s.root.toNat = 0 := by omega
      obtain ⟨hleaf, hsym⟩ := h.leaf (i := 0) (by omega)
      rw [hr0, if_pos hleaf, hsym] at hl
      exact .inr (.inl ⟨h1, (Option.some.inj hl).symm⟩)
    · have hleaf := (h.inner (j := s.root.toNat) (by omega) (by omega)).1
      rw [if_neg (by simp [hleaf])] at hl
      exact .inr (.inr ⟨by omega, hl⟩)

/-- Each assignment is the path of a leaf, for its symbol, and fits a code (44_codes.md R254). -/
theorem assignment_path (ht : TableOk s) (h : TreeOk s) {l : List Assignment} (hl : treeAssignments s = some l)
    {e : Assignment} (he : e ∈ l) :
    e.2.length < 256 ∧ ∃ i, i < s.nsyms.toNat ∧ e.1 = ftSymAt s i ∧ (s.nsyms.toNat = 1 → e.2 = [false])
      ∧ (2 ≤ s.nsyms.toNat → follow (nodeInfoAt s) s.root.toNat e.2 = some i) := by
  obtain ⟨-, rfl⟩ | ⟨h1, rfl⟩ | ⟨h2, hw⟩ := treeAssignments_cases h hl
  · cases he
  · rw [List.mem_singleton.mp he]
    exact ⟨by simp, 0, by omega, rfl, fun _ => rfl, fun h2 => absurd h2 (by omega)⟩
  · obtain ⟨r, i, hf, hleaf, rfl⟩ := (mem_walk_iff hw e).mp he
    have hroot := h.root_eq (by omega)
    have hn : s.nsyms.toNat ≤ 256 := ht.nsyms_le
    obtain ⟨hi, hlen⟩ := h.follow_bounds (by omega) hf
    have hin := (h.infoLeaf_iff hi).mp hleaf
    rw [List.nil_append]
    exact ⟨by show r.length < 256; omega, i, hin, (h.leaf hin).2, fun h1 => absurd h1 (by omega), fun _ => hf⟩

/-- Every symbol of the table is assigned a code. -/
theorem exists_assignment (h : TreeOk s) {l : List Assignment} (hl : treeAssignments s = some l) {i : Nat}
    (hi : i < s.nsyms.toNat) : ∃ e ∈ l, e.1 = ftSymAt s i := by
  obtain ⟨h0, -⟩ | ⟨h1, rfl⟩ | ⟨h2, hw⟩ := treeAssignments_cases h hl
  · omega
  · obtain rfl : i = 0 := by omega
    exact ⟨_, List.mem_singleton_self _, rfl⟩
  · obtain ⟨p, hp⟩ := h.exists_follow (k := i) (by omega)
    obtain ⟨hleaf, hsym⟩ := h.leaf hi
    exact ⟨_, (mem_walk_iff hw _).mpr ⟨p, i, hp, hleaf, rfl⟩, hsym⟩

end Tree

/-! ### The codes ASSIGN_CODES stores (44_codes.md R250, 10_state.md R53) -/

theorem codesAssigned_codeLen (l : List Assignment) (s : State) :
    (codesAssigned l s).codeLen = Cells.fill nsym fun c => BitVec.ofNat 8 (codeOf l (BitVec.ofNat 8 c)).length := by
  simp only [codesAssigned]

theorem codesAssigned_codeBits (l : List Assignment) (s : State) :
    (codesAssigned l s).codeBits
      = Cells.fill (8 * nsym) fun k => codeWord (codeOf l (BitVec.ofNat 8 (k / 8))) (k % 8) := by
  simp only [codesAssigned]

theorem codeLength_codesAssigned {l : List Assignment} (s : State) {c : Byte} (h : (codeOf l c).length < 256) :
    codeLength (codesAssigned l s) c = (codeOf l c).length := by
  rw [codeLength, codesAssigned_codeLen, byteCell_fill _ _ (n := nsym) c.isLt, BitVec.ofNat_toNat, BitVec.setWidth_eq,
    BitVec.toNat_ofNat]
  exact Nat.mod_eq_of_lt h

/-- Code bit k is in word k / 32 of its symbol's eight. -/
theorem codeBits_index_lt (c : Byte) {k : Nat} (hk : k < 256) : 8 * c.toNat + k / 32 < 8 * nsym := by
  have hc := c.isLt
  unfold nsym; omega

theorem codeBit_codesAssigned (l : List Assignment) (s : State) (c : Byte) {k : Nat} (hk : k < 256) :
    codeBit (codesAssigned l s) c k = (codeOf l c).getD k false := by
  rw [codeBit, codesAssigned_codeBits, wordCell_fill _ _ (codeBits_index_lt c hk),
    show (8 * c.toNat + k / 32) / 8 = c.toNat by omega, show (8 * c.toNat + k / 32) % 8 = k / 32 by omega,
    BitVec.ofNat_toNat, BitVec.setWidth_eq, codeWord_getLsbD _ _ (Nat.mod_lt _ (by decide)), Nat.div_add_mod]

theorem codeSeq_codesAssigned {l : List Assignment} (s : State) {c : Byte} (h : (codeOf l c).length < 256) :
    codeSeq (codesAssigned l s) c = codeOf l c := by
  have hlen := codeLength_codesAssigned s h
  refine List.ext_getElem (by simp [codeSeq, hlen]) fun k _ hk => ?_
  simp only [codeSeq, List.getElem_map, List.getElem_range]
  rw [codeBit_codesAssigned l s c (hk.trans h), List.getD_eq_getElem _ _ hk]

/-- ASSIGN_CODES leaves the paths of the tree (44_codes.md R250-R254). -/
theorem codesOk_codesAssigned {s : State} (ht : TableOk s) (h : TreeOk s) {l : List Assignment}
    (hl : treeAssignments s = some l) : CodesOk (codesAssigned l s) := by
  have hshort : ∀ c, (codeOf l c).length < 256 := fun c => by
    obtain ⟨hnil, -⟩ | ⟨e, he, -, hce⟩ := codeOf_cases l c
    · rw [hnil]; decide
    · rw [hce]; exact (assignment_path ht h hl he).1
  have hcoded : ∀ i, i < s.nsyms.toNat → (s.nsyms.toNat = 1 → codeOf l (ftSymAt s i) = [false])
      ∧ (2 ≤ s.nsyms.toNat → follow (nodeInfoAt s) s.root.toNat (codeOf l (ftSymAt s i)) = some i) := fun i hi => by
    obtain ⟨e, he, hes⟩ := exists_assignment h hl hi
    obtain ⟨-, hnone⟩ | ⟨f, hf, hfs, hcf⟩ := codeOf_cases l (ftSymAt s i)
    · exact absurd hes (hnone e he)
    · obtain ⟨-, j, hj, hfj, hone, htwo⟩ := assignment_path ht h hl hf
      obtain rfl := ht.ftSymAt_inj hj hi (hfj.symm.trans hfs)
      rw [hcf]
      exact ⟨hone, htwo⟩
  refine ⟨fun k hk => ?lengths, fun k hk => ?words, fun i hi h1 => ?single, fun i hi h2 => ?paths,
    fun c hc => ?absent, fun c k hk hle => ?unused⟩
  case lengths => rw [codesAssigned_codeLen]; exact read_fill_ne_none _ hk
  case words => rw [codesAssigned_codeBits]; exact read_fill_ne_none _ hk
  case single => rw [codeSeq_codesAssigned s (hshort _)]; exact (hcoded i hi).1 h1
  case paths => rw [codeSeq_codesAssigned s (hshort _)]; exact (hcoded i hi).2 h2
  case absent =>
    rw [codeLength_codesAssigned s (hshort c)]
    obtain ⟨hnil, -⟩ | ⟨e, he, hec, -⟩ := codeOf_cases l c
    · rw [hnil]; rfl
    · obtain ⟨-, i, hi, hei, -⟩ := assignment_path ht h hl he
      exact absurd (hei.symm.trans hec) (hc i hi)
  case unused =>
    rw [codeLength_codesAssigned s (hshort c)] at hle
    rw [codeBit_codesAssigned l s c hk, List.getD_eq_default _ _ hle]

/-! ### The codes do not depend on the next free value -/

/-- Paths in a tree see only the nodes of the tree. -/
theorem TreeOk.follow_congr {s : State} (h : TreeOk s) {info : Nat → Word}
    (hinfo : ∀ j, j < 2 * s.nsyms.toNat - 1 → info j = nodeInfoAt s j) {j : Nat} (hj : j < 2 * s.nsyms.toNat - 1)
    (p : List Bool) : follow info j p = follow (nodeInfoAt s) j p := by
  induction p generalizing j with
  | nil => rfl
  | cons b p ih =>
    cases hleaf : infoLeaf (nodeInfoAt s j) with
    | true => rw [follow, follow, hinfo j hj, if_pos hleaf, if_pos hleaf]
    | false =>
      have hnj : ¬ j < s.nsyms.toNat := fun hlt => by rw [(h.leaf hlt).1] at hleaf; cases hleaf
      have hchild := (h.inner hj (by omega)).2 b
      rw [follow_cons_of_inner hleaf, follow_cons_of_inner (by rw [hinfo j hj]; exact hleaf), hinfo j hj,
        ih (by omega)]

theorem CodesOk.length_defined {s : State} (h : CodesOk s) (c : Byte) : Cells.read s.codeLen c.toNat ≠ none :=
  h.1 c.toNat c.isLt

theorem CodesOk.bits_defined {s : State} (h : CodesOk s) (c : Byte) {k : Nat} (hk : k < 256) :
    Cells.read s.codeBits (8 * c.toNat + k / 32) ≠ none := by
  obtain ⟨-, hbits, -⟩ := h
  exact hbits _ (codeBits_index_lt c hk)

theorem codeLength_redrawn {s : State} (h : CodesOk s) (d : Nat) (c : Byte) :
    codeLength { s with draws := d } c = codeLength s c :=
  congrArg BitVec.toNat (byteCell_eq (h.length_defined c) _ s c.toNat)

theorem codeBit_redrawn {s : State} (h : CodesOk s) (d : Nat) (c : Byte) {k : Nat} (hk : k < 256) :
    codeBit { s with draws := d } c k = codeBit s c k :=
  congrArg (·.getLsbD (31 - k % 32)) (wordCell_eq (h.bits_defined c hk) _ s)

theorem codeSeq_redrawn {s : State} (h : CodesOk s) (d : Nat) (c : Byte) :
    codeSeq { s with draws := d } c = codeSeq s c := by
  have hlt : codeLength s c < 256 := (byteCell s s.codeLen c.toNat c.toNat).isLt
  rw [codeSeq, codeSeq, codeLength_redrawn h]
  exact List.map_congr_left fun k hk => codeBit_redrawn h d c ((List.mem_range.mp hk).trans hlt)

theorem codesOk_redrawn {s : State} (ht : TableOk s) (hr : TreeOk s) (h : CodesOk s) (d : Nat) :
    CodesOk { s with draws := d } := by
  obtain ⟨hlen, hbits, hone, htwo, habsent, hunused⟩ := id h
  have hn : s.nsyms.toNat ≤ 256 := ht.nsyms_le
  have hsym : ∀ {i}, i < s.nsyms.toNat → ftSymAt { s with draws := d } i = ftSymAt s i :=
    fun hi => ftSymAt_redrawn ht d (hi.trans_le hn)
  refine ⟨hlen, hbits, fun i hi h1 => ?single, fun i hi h2 => ?paths, fun c hc => ?absent, fun c k hk hle => ?unused⟩
  case single => rw [hsym hi, codeSeq_redrawn h]; exact hone i hi h1
  case paths =>
    have h2' : 2 ≤ s.nsyms.toNat := h2
    have hinfo : ∀ j, j < 2 * s.nsyms.toNat - 1 → nodeInfoAt { s with draws := d } j = nodeInfoAt s j :=
      fun j hj => nodeInfoAt_redrawn hr d (by unfold maxNodes; omega)
    have hroot := hr.root_eq (by omega)
    rw [hsym hi, codeSeq_redrawn h, hr.follow_congr hinfo (by show s.root.toNat < _; omega)]
    exact htwo i hi h2
  case absent =>
    rw [codeLength_redrawn h]
    exact habsent c fun i hi => by rw [← hsym hi]; exact hc i hi
  case unused =>
    rw [codeLength_redrawn h] at hle
    rw [codeBit_redrawn h d c hk]
    exact hunused c k hk hle

/-! ### Every step keeps the whole chain -/

theorem CodesInv.tableInv {s : State} (h : CodesInv s) : TableInv s := h.1.1

theorem codesInv_redrawn {s : State} (h : CodesInv s) (d : Nat) : CodesInv { s with draws := d } := by
  obtain ⟨⟨htable, htree⟩, hcodes⟩ := h
  obtain ⟨-, -, hrt, hcr, -, hok⟩ := id htable
  exact ⟨treeInv_redrawn ⟨htable, htree⟩ d,
    fun hv => codesOk_redrawn (hok (hrt (hcr hv))) (htree (hcr hv)) (hcodes hv) d⟩

theorem codesInv_histWriter {i : Instr} {s t : State} (hs : CodesInv s) (hi : HistWriter i) (h : Completes i s t) :
    CodesInv t := by
  obtain ⟨-, -, -, hcodes, -⟩ := histWriter_keeps hs.tableInv hi h
  exact ⟨treeInv_histWriter hs.1 hi h, fun hv => absurd (hcodes.symm.trans hv) (by decide)⟩

theorem codesInv_codesAssigned {s : State} {l : List Assignment} (hs : TreeInv s) (hv : s.treeValid = true)
    (hl : treeAssignments s = some l) : CodesInv (codesAssigned l s) := by
  obtain ⟨htable, htree⟩ := hs
  obtain ⟨-, -, hrt, -, -, hok⟩ := id htable
  exact ⟨⟨tableInv_codesAssigned l htable hv, htree⟩, fun _ => codesOk_codesAssigned (hok (hrt hv)) (htree hv) hl⟩

/-- Settles O53: ASSIGN_CODES makes the codes, whatever writes the tree, the table or HIST ends their validity, and
nothing else writes what they stand on. -/
theorem stepKeepsCodesInvariant : Obligations.StepKeepsCodesInvariant := by
  refine fun s t hs h => chain_step_keeps (P := CodesInv) ?kept ?redrawn ?histWritten ?table ?tree ?codes ?asserted hs h
  case kept => intro s t hs hk; rw [hk]; exact hs
  case redrawn => exact fun _ d h => codesInv_redrawn h d
  case histWritten => exact fun _ _ _ => codesInv_histWriter
  case table => exact fun _ h hv => ⟨⟨tableInv_tableMade h.tableInv hv, nofun⟩, nofun⟩
  case tree => exact fun _ h hv => ⟨treeInv_treeBuilt h.tableInv hv, nofun⟩
  case codes => exact fun _ _ h hv hl => codesInv_codesAssigned h.1 hv hl
  case asserted => exact fun _ h => ⟨⟨tableInv_assertReset h.tableInv, nofun⟩, nofun⟩

end Sys2Proof.Machine
end

/-! PROOFS. The host bus (20_memory.md): the address map, what a served and an unserved access do, what a busy block
answers and drops, and what an idle block reads. -/

section
namespace Sys2Proof.Machine

/-! ### The address map (20_memory.md R84, R85) -/

theorem Region.holds_iff (r : Region) (a : Nat) : r.holds a = true ↔ r.base ≤ a ∧ a < r.base + 4 * r.count := by
  simp [Region.holds]

/-- The regions stand in the order of their addresses, each ending before the next begins. -/
theorem addressMap_pairwise {cfg : Config} (h : cfg.wf = true) :
    (addressMap cfg).Pairwise fun r r' => r.base + 4 * r.count ≤ r'.base := by
  obtain ⟨-, -, -, hi, -, -⟩ := config_bounds h
  simp only [addressMap, List.pairwise_cons, List.forall_mem_cons, List.not_mem_nil, false_implies, implies_true,
    List.Pairwise.nil, and_true]
  omega

/-- Word k of a region is the place the region names for it: the regions before it end at or below its base. -/
theorem locate_region {cfg : Config} (h : cfg.wf = true) {r : Region} (hr : r ∈ addressMap cfg) {k : Nat}
    (hk : k < r.count) : locate cfg (r.base + 4 * k) = some (r.target k) := by
  obtain ⟨before, after, hsplit⟩ := List.append_of_mem hr
  have hbelow : ∀ r' ∈ before, r'.base + 4 * r'.count ≤ r.base := fun r' hr' =>
    (List.pairwise_append.mp (hsplit ▸ addressMap_pairwise h)).2.2 r' hr' r List.mem_cons_self
  have hfirst : (addressMap cfg).find? (fun r' => r'.holds (r.base + 4 * k)) = some r := by
    refine List.find?_eq_some_iff_append.mpr
      ⟨(r.holds_iff _).mpr (by omega), before, after, hsplit, fun r' hr' => ?_⟩
    have hend := hbelow r' hr'
    rw [Bool.not_eq_true', ← Bool.not_eq_true, Region.holds_iff]
    omega
  rw [locate, hfirst]
  simp

/-- An address that lies in no region is reserved. -/
theorem locate_eq_none {cfg : Config} {a : Nat}
    (h : ∀ r ∈ addressMap cfg, a < r.base ∨ r.base + 4 * r.count ≤ a) : locate cfg a = none := by
  have hnone : (addressMap cfg).find? (fun r => r.holds a) = none := by
    refine List.find?_eq_none.mpr fun r hr => ?_
    have hout := h r hr
    rw [Region.holds_iff]
    omega
  rw [locate, hnone]

/-- Settles O35: each window is a region of the map, and a reserved address lies in none of the regions. -/
theorem addressMapAsListed : Obligations.AddressMapAsListed := by
  intro cfg hwf
  have window : ∀ (base count : Nat) (target : Nat → Target), ⟨base, count, target⟩ ∈ addressMap cfg →
      ∀ k, k < count → locate cfg (base + 4 * k) = some (target k) :=
    fun _ _ _ hr _ hk => locate_region hwf hr hk
  refine ⟨rfl, fun k hk => ⟨?_, ?_, ?_, ?_⟩, fun k hk => ⟨?_, ?_⟩, fun c w hc hw => ?_, ?_, ?_, ?_⟩
  · exact window 0x1000 256 .hist (by simp [addressMap]) k hk
  · exact window 0x1400 256 .ftSym (by simp [addressMap]) k hk
  · exact window 0x1800 256 .ftCnt (by simp [addressMap]) k hk
  · exact window 0x3000 256 .codeLen (by simp [addressMap]) k hk
  · exact window 0x2000 511 .nodeW (by simp [addressMap]) k hk
  · exact window 0x2800 511 .nodeInfo (by simp [addressMap]) k hk
  · rw [show 0x4000 + 32 * c + 4 * w = 0x4000 + 4 * (8 * c + w) by omega]
    exact window 0x4000 2048 .codeBits (by simp [addressMap]) _ (by omega)
  · exact window 0x8000 cfg.ibufSize .ibuf (by simp [addressMap])
  · exact window 0xC000 cfg.obufSize .obuf (by simp [addressMap])
  · intro a ha hreserved
    obtain ⟨-, -, -, hi, -, -⟩ := config_bounds hwf
    refine locate_eq_none ?_
    simp only [addressMap, List.forall_mem_cons, List.not_mem_nil, false_implies, implies_true, and_true]
    omega

/-! ### Served and unserved accesses (20_memory.md R82, R83, R85, R89) -/

theorem served_of_aligned {a : BitVec 16} (ha : a.toNat % 4 = 0) (cfg : Config) :
    served cfg 4 a = locate cfg a.toNat :=
  if_pos ⟨rfl, ha⟩

theorem served_eq_none {cfg : Config} {size : Nat} {a : BitVec 16}
    (h : size ≠ 4 ∨ a.toNat % 4 ≠ 0 ∨ locate cfg a.toNat = none) : served cfg size a = none := by
  rw [served]
  split
  · next hwide => exact (h.resolve_left (not_not.mpr hwide.1)).resolve_left (not_not.mpr hwide.2)
  · rfl

/-- Settles O57: at an aligned address `served` is the map. -/
theorem servedAccessesReachTheirTarget : Obligations.ServedAccessesReachTheirTarget := by
  intro s a v t ha ht
  have hserved : served s.cfg 4 a = some t := (served_of_aligned ha s.cfg).trans ht
  exact ⟨by rw [access, hserved], by rw [access, hserved]⟩

/-- Settles O36: an access that reaches nothing gets the BUS_ERR reply, and one that reaches a place is O57's. -/
theorem busErrorsChangeNothing : Obligations.BusErrorsChangeNothing := by
  intro s size a v
  refine ⟨fun h => ?_, ?_⟩
  · have hnone := served_eq_none h
    exact ⟨by rw [access, hnone]; rfl, by rw [access, hnone]; rfl⟩
  · rintro rfl ha hmapped
    obtain ⟨t, ht⟩ := Option.ne_none_iff_exists'.mp hmapped
    obtain ⟨hread, hwrite⟩ := servedAccessesReachTheirTarget s a v t ha ht
    exact ⟨⟨_, hread⟩, by rw [hwrite]⟩

/-- The places a busy block answers read the same as in an idle one (20_memory.md R88). -/
theorem readData_of_readableBusy (s : State) {t : Target} (h : t.readableBusy = true) :
    readData s t = readTarget s t := by
  simp [readData, h]

theorem readableBusy_iff (t : Target) :
    t.readableBusy = true ↔ t ∈ [Target.id, .config, .ibufSize, .obufSize, .cmd, .status] := by
  cases t <;> simp [Target.readableBusy]

/-- Settles O37: a read changes the reply alone, and only the five writable places have a write effect. -/
theorem readsAndReadOnlyWritesHaveNoEffect : Obligations.ReadsAndReadOnlyWritesHaveNoEffect := by
  refine ⟨fun s size a => by rw [access_read], fun s v t hcmd hstatus harg hlen hibuf => ?_, fun s => ?_⟩
  · cases t with
    | cmd => exact absurd rfl hcmd
    | status => exact absurd rfl hstatus
    | arg => exact absurd rfl harg
    | inLen => exact absurd rfl hlen
    | ibuf k => exact absurd rfl (hibuf k)
    | _ => rfl
  · exact readData_of_readableBusy s rfl

/-- Settles O8: a step is its first turn, and the host's turn is its access unless reset is asserted. -/
theorem hostTurnMakesTheAccess : Obligations.HostTurnMakesTheAccess := by
  intro s a rest hturns
  have hstep : step s = hostTurn a { s with turns := rest } := by rw [step_eq, hturns]; rfl
  rw [hstep, hostTurn]
  exact ⟨fun hrun => by rw [hrun]; rfl, fun hreset => if_pos hreset⟩

/-! ### Accesses while BUSY (20_memory.md R88; 70_reset_and_hazards.md R351, R352) -/

/-- Settles O42: the six places are the readable ones, and a busy block drops every operand write. -/
theorem busyAccesses : Obligations.BusyAccesses := by
  intro s v hbusy
  have hdrop : ∀ stored, operandWrite stored s = dropWrite s := fun _ => if_pos hbusy
  refine ⟨fun t ht => readData_of_readableBusy s ((readableBusy_iff t).mpr ht), readData_of_readableBusy s rfl,
    readData_of_readableBusy s rfl, fun t ht => ?_, hdrop _, hdrop _, fun k => hdrop _⟩
  have hfree : t.readableBusy = false := by rwa [← Bool.not_eq_true, readableBusy_iff]
  rw [readData, hbusy, hfree]
  rfl

/-! ### Reads in an idle block (20_memory.md R87) -/

theorem countCell_of_some {s : State} {m : Cells Word} {k : Nat} {v : Word} (h : Cells.read m k = some v) :
    countCell s m k = v := by
  rw [countCell, h]

theorem wordCell_of_some {s : State} {m : Cells Word} {k : Nat} {v : Word} (h : Cells.read m k = some v) :
    wordCell s m k = v := by
  rw [wordCell, h]

/-- Settles O56: the word of a place is its register zero-extended, or the value its cell holds. -/
theorem idleReadsGiveTheirValues : Obligations.IdleReadsGiveTheirValues := by
  intro s hidle
  have hext : ∀ {w : Nat} (x : BitVec w), w ≤ 32 → (x.setWidth 32).toNat = x.toNat :=
    fun _ hw => BitVec.toNat_setWidth_of_le hw
  simp only [readData_of_idle hidle, readTarget, true_and]
  refine ⟨?registers, fun k v => ?words, fun k b => ?bytes⟩
  case registers =>
    refine ⟨hext _ ?_, hext _ ?_, hext _ ?_, hext _ ?_, hext _ ?_, hext _ ?_, hext _ ?_, hext _ ?_⟩ <;> decide
  case words =>
    exact ⟨countCell_of_some, countCell_of_some, countCell_of_some, wordCell_of_some, wordCell_of_some⟩
  case bytes =>
    refine ⟨fun h => ?_, fun h => ?_, fun h => ?_, fun hk h => ?_⟩
    · rw [byteCell_of_some h]
    · rw [byteCell_of_some h]
    · rw [byteCell_of_some h]
    · rw [obufCell, if_pos hk, byteCell_of_some h]

end Sys2Proof.Machine
end

/-! PROOFS. The command words (30_encoding.md): a row of the table gives each word it matches one command and each of
its commands one word, and a word no row matches raises ILLEGAL_CMD. -/

section
namespace Sys2Proof.Machine

/-! ### A range of bits of a masked word (30_encoding.md R121, R122) -/

theorem extractLsb'_and_mask {c m : Word} {a n : Nat} (hm : m.extractLsb' a n = BitVec.allOnes n) :
    (c &&& m).extractLsb' a n = c.extractLsb' a n := by
  rw [BitVec.extractLsb'_and, hm, BitVec.and_allOnes]

/-- Every mask covers bits 7:0 (R125). -/
theorem fieldOp_and_mask (c : Word) (f : Format) : fieldOp (c &&& f.mask) = fieldOp c :=
  extractLsb'_and_mask (by cases f <;> rfl)

/-- No format uses RSV (R122). -/
theorem fieldRsv_and_mask (c : Word) (f : Format) : fieldRsv (c &&& f.mask) = fieldRsv c :=
  extractLsb'_and_mask (by cases f <;> rfl)

/-! ### The words a row matches (30_encoding.md R124, R125) -/

theorem hits_iff (r : OpRow) (c : Word) : r.hits c = true ↔ c &&& r.format.mask = r.bits := beq_iff_eq

theorem fieldOp_of_match {c : Word} {r : OpRow} (h : c &&& r.format.mask = r.bits) : fieldOp r.bits = fieldOp c := by
  rw [← h, fieldOp_and_mask]

theorem opTable_fieldOp_nodup : (opTable.map fun r => fieldOp r.bits).Nodup := by decide

/-- A row is known by its OP value. -/
theorem row_eq_of_fieldOp {r r' : OpRow} (hr : r ∈ opTable) (hr' : r' ∈ opTable)
    (h : fieldOp r.bits = fieldOp r'.bits) : r = r' := List.inj_on_of_nodup_map opTable_fieldOp_nodup hr hr' h

/-- At most one row matches a word. -/
theorem row_eq_of_match {c : Word} {r r' : OpRow} (hr : r ∈ opTable) (hr' : r' ∈ opTable)
    (h : c &&& r.format.mask = r.bits) (h' : c &&& r'.format.mask = r'.bits) : r = r' :=
  row_eq_of_fieldOp hr hr' ((fieldOp_of_match h).trans (fieldOp_of_match h').symm)

theorem fieldRsv_of_match {c : Word} {r : OpRow} (hr : r ∈ opTable) (h : c &&& r.format.mask = r.bits) :
    fieldRsv c = 0 := by
  have hbits : ∀ r ∈ opTable, fieldRsv r.bits = 0 := by decide
  rw [← fieldRsv_and_mask c r.format, h, hbits r hr]

/-! ### What the decoder answers (30_encoding.md R125) -/

/-- The row the decoder finds is in the table and matches. -/
theorem row_of_find {c : Word} {r : OpRow} (h : opTable.find? (fun r => r.hits c) = some r) :
    r ∈ opTable ∧ c &&& r.format.mask = r.bits :=
  ⟨List.mem_of_find?_eq_some h, (hits_iff r c).mp (List.find?_some (p := fun r : OpRow => r.hits c) h)⟩

/-- A word that decodes is its command by a row that matches it. -/
theorem row_of_decode {c : Word} {i : Instr} (h : decode c = .ok i) :
    ∃ r ∈ opTable, c &&& r.format.mask = r.bits ∧ r.instr c = i := by
  unfold decode at h
  split at h
  next r hfind =>
    obtain ⟨hr, hmatch⟩ := row_of_find hfind
    exact ⟨r, hr, hmatch, Except.ok.inj h⟩
  next => nomatch h

/-- The decoder finds the row that matches, since no other row does. -/
theorem decode_of_match {c : Word} {r : OpRow} (hr : r ∈ opTable) (h : c &&& r.format.mask = r.bits) :
    decode c = .ok (r.instr c) := by
  have hsome : (opTable.find? fun r => r.hits c).isSome := List.find?_isSome.mpr ⟨r, hr, (hits_iff r c).mpr h⟩
  obtain ⟨r', hfind⟩ := Option.isSome_iff_exists.mp hsome
  obtain ⟨hr', hmatch⟩ := row_of_find hfind
  rw [decode, hfind, row_eq_of_match hr' hr hmatch h]

/-- A word no row matches is an illegal command, whatever the state (R126). -/
theorem runCommand_of_no_match {c : Word} (h : ∀ r ∈ opTable, c &&& r.format.mask ≠ r.bits) (s : State) :
    runCommand c s = .next (raise .illegalCmd c s) := by
  cases hd : decode c with
  | error w => rw [runCommand_illegal hd, fail_eq]
  | ok i =>
    obtain ⟨r, hr, hmatch, -⟩ := row_of_decode hd
    exact absurd hmatch (h r hr)

/-! ### The word of a row's command (30_encoding.md R122-R124) -/

/-- A field put back in its place is the word masked to the field. -/
theorem setWidth_extractLsb'_shiftLeft (c : Word) (a n : Nat) :
    (c.extractLsb' a n).setWidth 32 <<< a = c &&& (BitVec.allOnes n).setWidth 32 <<< a := by
  ext k hk
  grind

/-- Format F0 has no operand field: its mask leaves no bit free. -/
theorem wordF0_eq (m c : Word) : wordF0 m = m ||| (c &&& ~~~Format.f0.mask) := by
  have hfree : ~~~Format.f0.mask = 0#32 := rfl
  rw [wordF0, hfree, BitVec.and_zero, BitVec.or_zero]

/-- Format FB's operand field is B, the bit its mask leaves free. -/
theorem wordFB_fieldB (m c : Word) : wordFB m (fieldB c) = m ||| (c &&& ~~~Format.fb.mask) := by
  have hB : BitVec.ofBool (fieldB c) = c.extractLsb' 8 1 := by
    ext k hk
    grind [fieldB]
  rw [wordFB, hB, setWidth_extractLsb'_shiftLeft]
  rfl

/-- Format FS's operand field is SYM, the bits its mask leaves free. -/
theorem wordFS_fieldSym (m c : Word) : wordFS m (fieldSym c) = m ||| (c &&& ~~~Format.fs.mask) := by
  rw [wordFS, fieldSym, setWidth_extractLsb'_shiftLeft]
  rfl

/-- Format FN's operand field is N5, the bits its mask leaves free. -/
theorem wordFN_countOf (m c : Word) : wordFN m (countOf c) = m ||| (c &&& ~~~Format.fn.mask) := by
  rw [wordFN, countOf, Nat.add_sub_cancel, BitVec.ofNat_toNat, BitVec.setWidth_eq, fieldN5,
    setWidth_extractLsb'_shiftLeft]
  rfl

/-- The command a row reads from a word is encoded as the row's match with the word's operand field. -/
theorem encode_instr {r : OpRow} (hr : r ∈ opTable) (c : Word) :
    encode (r.instr c) = r.bits ||| (c &&& ~~~r.format.mask) := by
  have hF0 : ∀ m, wordF0 m = m ||| (c &&& ~~~Format.f0.mask) := fun m => wordF0_eq m c
  revert r
  simp only [opTable, encode, hF0, wordFB_fieldB, wordFS_fieldSym, wordFN_countOf, List.forall_mem_cons,
    List.not_mem_nil, false_implies, implies_true, and_self]

/-- N5 + 1 is 1, ..., 32 (R123). -/
theorem countOk_countOf (c : Word) : countOk (countOf c) = true := by
  have hN5 : (fieldN5 c).toNat < 2 ^ 5 := (fieldN5 c).isLt
  rw [countOk, countOf, Bool.and_eq_true]
  exact ⟨decide_eq_true (by omega), decide_eq_true (by omega)⟩

theorem wf_instr {r : OpRow} (hr : r ∈ opTable) (c : Word) : (r.instr c).wf = true := by
  revert r
  simp only [opTable, Instr.wf, countOk_countOf, List.forall_mem_cons, List.not_mem_nil, false_implies, implies_true,
    and_self]

/-- A word is its bits under a mask and its bits outside it. -/
theorem and_or_and_not (c m : Word) : (c &&& m) ||| (c &&& ~~~m) = c := by
  rw [← BitVec.and_or_distrib_left, BitVec.or_not_self, BitVec.and_allOnes]

theorem encode_of_decode {c : Word} {i : Instr} (h : decode c = .ok i) : encode i = c := by
  obtain ⟨r, hr, hmatch, rfl⟩ := row_of_decode h
  rw [encode_instr hr, ← hmatch, and_or_and_not]

theorem wf_of_decode {c : Word} {i : Instr} (h : decode c = .ok i) : i.wf = true := by
  obtain ⟨r, hr, -, rfl⟩ := row_of_decode h
  exact wf_instr hr c

/-- A word that decodes to the command a row reads from it is matched by that row: the command's encoding keeps the
row's match. -/
theorem match_of_decode {c : Word} {r : OpRow} (hr : r ∈ opTable) (h : decode c = .ok (r.instr c)) :
    c &&& r.format.mask = r.bits := by
  have hbits : ∀ r ∈ opTable, r.bits &&& r.format.mask = r.bits := by decide
  calc c &&& r.format.mask = (r.bits ||| (c &&& ~~~r.format.mask)) &&& r.format.mask := by
        rw [← encode_instr hr, encode_of_decode h]
    _ = r.bits := by
      simp [BitVec.and_or_distrib_right, BitVec.and_assoc, hbits r hr]

/-! ### The statements of 30_encoding.md -/

/-- Settles O1, by the round trip of each command in Laws/PerInstr. -/
theorem decodeReadsBackEncode : Obligations.DecodeReadsBackEncode
  | .nop => Laws.RoundTrip.nop
  | .wrReset => Laws.RoundTrip.wrReset
  | .writeBit b => Laws.RoundTrip.writeBit b
  | .writeBits n => Laws.RoundTrip.writeBits n
  | .flush => Laws.RoundTrip.flush
  | .close => Laws.RoundTrip.close
  | .rdReset => Laws.RoundTrip.rdReset
  | .readBits n => Laws.RoundTrip.readBits n
  | .rdAlign => Laws.RoundTrip.rdAlign
  | .clearHist => Laws.RoundTrip.clearHist
  | .scanSym s => Laws.RoundTrip.scanSym s
  | .scanBuf => Laws.RoundTrip.scanBuf
  | .setBin s => Laws.RoundTrip.setBin s
  | .makeTable => Laws.RoundTrip.makeTable
  | .buildTree => Laws.RoundTrip.buildTree
  | .assignCodes => Laws.RoundTrip.assignCodes
  | .writeCode s => Laws.RoundTrip.writeCode s
  | .decodeSym => Laws.RoundTrip.decodeSym

/-- Settles O2: the row that matches gives the word's meaning, and the meaning's encoding is the row's match with the
word's own operand field. -/
theorem decodedWordIsTheEncoding : Obligations.DecodedWordIsTheEncoding :=
  fun _ _ h => ⟨wf_of_decode h, encode_of_decode h⟩

/-- Settles O3: two rows that match one word have its OP value, and the command a row reads keeps the row's match in
its encoding. -/
theorem decodeByMaskAndMatch : Obligations.DecodeByMaskAndMatch :=
  ⟨fun _ _ hr => ⟨match_of_decode hr, decode_of_match hr⟩,
    fun _ _ _ hr hr' h h' => congrArg OpRow.bits (row_eq_of_match hr hr' h h'),
    opTable_fieldOp_nodup, by decide, fun _ s h => runCommand_of_no_match h s⟩

/-- The 18 assigned OP values (30_encoding.md R124). -/
theorem opTable_opcodes : (opTable.map fun r => (fieldOp r.bits).toNat) =
    [0x00, 0x10, 0x11, 0x12, 0x13, 0x14, 0x18, 0x19, 0x1A, 0x20, 0x21, 0x22, 0x23, 0x24, 0x30, 0x40, 0x50, 0x51] := rfl

/-- Settles O4: a word's OP and RSV are those of the row that matches it. -/
theorem illegalWordsRaiseIllegalCmd : Obligations.IllegalWordsRaiseIllegalCmd := by
  refine ⟨fun c s h => ?noRow, fun k hk => ?opcodes, fun c s h => ?op, fun c s r hr hop hne => ?unused,
    fun c s h => ?rsv⟩
  case noRow =>
    exact runCommand_of_no_match (fun r hr hmatch => by simp [← hits_iff, h r hr] at hmatch) s
  case opcodes =>
    have hmem : (∀ r ∈ opTable, (fieldOp r.bits).toNat ≠ k) ↔ k ∉ opTable.map fun r => (fieldOp r.bits).toNat := by
      simp
    rw [hmem, opTable_opcodes]
    simp only [List.mem_cons, List.not_mem_nil, or_false]
    omega
  case op =>
    exact runCommand_of_no_match (fun r hr hmatch => h r hr (fieldOp_of_match hmatch)) s
  case unused =>
    refine runCommand_of_no_match (fun r' hr' hmatch => ?_) s
    obtain rfl := row_eq_of_fieldOp hr' hr ((fieldOp_of_match hmatch).trans hop)
    exact hne hmatch
  case rsv =>
    exact runCommand_of_no_match (fun r hr hmatch => h (fieldRsv_of_match hr hmatch)) s

/-- Settles O5: the decoder reads each of the ten words by its row, and each of the eight is rejected. -/
theorem specWordsDecode : Obligations.SpecWordsDecode := by
  refine ⟨rfl, rfl, rfl, rfl, rfl, rfl, rfl, rfl, rfl, rfl, ?_⟩
  simp only [List.forall_mem_cons]
  exact ⟨nofun, nofun, nofun, nofun, nofun, nofun, nofun, nofun, nofun⟩

end Sys2Proof.Machine
end

/-! PROOFS. Every command ends (40_control.md R154): the walk of a tree has an end, so no step faults, and only an
access during reset is refused. -/

section
namespace Sys2Proof.Machine

/-! ### What the validity flags give (10_state.md R57) -/

theorem TableInv.histOk {s : State} (h : TableInv s) (hv : s.histValid = true) : HistOk s := by
  obtain ⟨-, -, -, -, hhist, -⟩ := h
  exact hhist hv

theorem TableInv.tableOk {s : State} (h : TableInv s) (hv : s.tableValid = true) : TableOk s := by
  obtain ⟨-, -, -, -, -, htable⟩ := h
  exact htable hv

theorem TreeInv.tableOk {s : State} (h : TreeInv s) (hv : s.treeValid = true) : TableOk s := by
  obtain ⟨⟨-, -, hrt, -, -, htable⟩, -⟩ := h
  exact htable (hrt hv)

theorem TreeInv.treeOk {s : State} (h : TreeInv s) (hv : s.treeValid = true) : TreeOk s := h.2 hv

/-! ### The walk of a tree ends (44_codes.md R251) -/

/-- The children of an internal node lie below it. -/
theorem TreeOk.child_lt {s : State} (h : TreeOk s) {j : Nat} (hj : j < 2 * s.nsyms.toNat - 1)
    (hleaf : infoLeaf (nodeInfoAt s j) = false) (b : Bool) : infoChild (nodeInfoAt s j) b < j := by
  have hnj : ¬ j < s.nsyms.toNat := fun hlt => by rw [(h.leaf hlt).1] at hleaf; cases hleaf
  exact (h.inner hj (by omega)).2 b

theorem TreeOk.root_lt {s : State} (h : TreeOk s) (hne : s.nnodes ≠ 0) : s.root.toNat < 2 * s.nsyms.toNat - 1 := by
  obtain ⟨hnn, -⟩ := id h
  have hpos : s.nnodes.toNat ≠ 0 := fun h0 => hne (BitVec.eq_of_toNat_eq h0)
  have := h.root_eq (by omega)
  omega

theorem TableOk.lt_maxNodes {s : State} (h : TableOk s) {j : Nat} (hj : j < 2 * s.nsyms.toNat - 1) : j < maxNodes := by
  have := h.nsyms_le
  unfold maxNodes; omega

/-- The walk goes to smaller nodes only, so from node j it needs no more than j levels below it. -/
theorem TreeOk.exists_walk {s : State} (h : TreeOk s) {depth j : Nat} (hj : j < 2 * s.nsyms.toNat - 1)
    (hdepth : j < depth) (p : List Bool) : ∃ l, walk (nodeInfoAt s) depth j p = some l := by
  induction depth generalizing j p with
  | zero => exact absurd hdepth (Nat.not_lt_zero j)
  | succ depth ih =>
    cases hleaf : infoLeaf (nodeInfoAt s j) with
    | true => exact ⟨_, by rw [walk, if_pos hleaf]⟩
    | false =>
      have hleft : infoLeft (nodeInfoAt s j) < j := h.child_lt hj hleaf false
      have hright : infoRight (nodeInfoAt s j) < j := h.child_lt hj hleaf true
      obtain ⟨l, hl⟩ := ih (hleft.trans hj) (by omega) (p ++ [false])
      obtain ⟨r, hr⟩ := ih (hright.trans hj) (by omega) (p ++ [true])
      exact ⟨l ++ r, by rw [walk, if_neg (by simp [hleaf]), hl, hr]⟩

theorem exists_treeAssignments {s : State} (ht : TableOk s) (h : TreeOk s) : ∃ l, treeAssignments s = some l := by
  unfold treeAssignments
  split
  · exact ⟨_, rfl⟩
  · next hne =>
    have hroot := h.root_lt hne
    split
    · exact ⟨_, rfl⟩
    · exact h.exists_walk hroot (ht.lt_maxNodes hroot) []

/-! ### Every command answers a next state -/

/-- The outcome is a next state: the machine neither faults nor refuses. -/
def Answers (r : Result) : Prop := ∃ t, r = .next t

/-- A check of a command answers when the rest of the command does: an error is taken (60_exceptions.md R302). -/
theorem answers_check {p : Prop} [Decidable p] {e : ErrCode} {c : Word} {s : State} {rest : Result}
    (h : ¬ p → Answers rest) : Answers (if p then fail e c s else rest) := by
  by_cases hp : p
  · rw [if_pos hp]; exact ⟨_, rfl⟩
  · rw [if_neg hp]; exact h hp

theorem answers_writeSeq (c : Word) (bits : List Bool) (s : State) : Answers (writeSeq c bits s) :=
  answers_check fun _ => answers_check fun _ => ⟨_, rfl⟩

theorem answers_execClose (s : State) : Answers (execClose s) := by
  unfold execClose
  split
  · exact ⟨_, rfl⟩
  · exact answers_check fun _ => ⟨_, rfl⟩

theorem answers_execAssignCodes {s : State} (h : TreeInv s) : Answers (execAssignCodes s) := by
  refine answers_check fun hv => ?_
  have hv : s.treeValid = true := by simpa using hv
  obtain ⟨l, hl⟩ := exists_treeAssignments (h.tableOk hv) (h.treeOk hv)
  rw [hl]
  exact ⟨_, rfl⟩

theorem answers_execDecodeSym (s : State) : Answers (execDecodeSym s) := by
  refine answers_check fun _ => ?_
  split
  · exact answers_check fun _ => answers_check fun _ => ⟨_, rfl⟩
  · split <;> exact ⟨_, rfl⟩

/-- Only ASSIGN_CODES has a stop, and the tree invariant rules it out. -/
theorem answers_exec (i : Instr) {s : State} (h : TreeInv s) : Answers (exec i s) := by
  cases i with
  | nop | wrReset | rdReset | rdAlign | clearHist => exact ⟨_, rfl⟩
  | writeBit b | writeBits n => exact answers_writeSeq _ _ s
  | flush | readBits n | makeTable | buildTree => exact answers_check fun _ => ⟨_, rfl⟩
  | close => exact answers_execClose s
  | scanSym c | scanBuf | setBin c => exact answers_check fun _ => answers_check fun _ => ⟨_, rfl⟩
  | assignCodes => exact answers_execAssignCodes h
  | writeCode c =>
    exact answers_check fun _ => answers_check fun _ => answers_check fun _ => answers_writeSeq _ _ s
  | decodeSym => exact answers_execDecodeSym s

theorem answers_runCommand (c : Word) {s : State} (h : TreeInv s) : Answers (runCommand c s) := by
  cases hd : decode c with
  | error w => rw [runCommand_illegal hd]; exact ⟨_, rfl⟩
  | ok i => rw [runCommand_ok hd]; exact answers_exec i h

theorem treeInv_beginCommand {s : State} (h : TreeInv s) : TreeInv (beginCommand s) :=
  treeInv_redrawn (s := { s with pending := none }) h _

theorem answers_engineTurn {s : State} (h : TreeInv s) : Answers (engineTurn s) := by
  unfold engineTurn
  split
  · exact ⟨_, rfl⟩
  · split
    · exact ⟨_, rfl⟩
    · exact answers_runCommand _ (treeInv_beginCommand h)

/-- A turn answers, but for the host's while reset is asserted (70_reset_and_hazards.md R342). -/
theorem takeTurn_answers_or_refuses (t : Turn) {s : State} (h : TreeInv s) :
    Answers (takeTurn t s)
      ∨ (takeTurn t s = .refused .accessDuringReset ∧ s.inReset = true ∧ ∃ a, t = .host a) := by
  cases t with
  | host a =>
    cases hr : s.inReset with
    | true => exact .inr ⟨by rw [takeTurn, hostTurn, if_pos hr], rfl, a, rfl⟩
    | false => exact .inl ⟨_, by rw [takeTurn, hostTurn, if_neg (by simp [hr])]⟩
  | engine => exact .inl (answers_engineTurn h)
  | assertReset | releaseReset => exact .inl ⟨_, rfl⟩

/-- A host access is next only where the schedule says so. -/
theorem turns_of_head_host {l : List Turn} {a : Access} (h : l.headD .engine = .host a) :
    ∃ rest, l = .host a :: rest := by
  cases l with
  | nil => cases h
  | cons t rest => exact ⟨rest, congrArg (· :: rest) h⟩

/-- Settles O54: every command answers under the tree invariant, ASSIGN_CODES because the walk of a tree ends, and of
the turns only an access during reset is refused. -/
theorem noStepStopsUnderTheInvariant : Obligations.NoStepStopsUnderTheInvariant := by
  intro s h
  obtain ⟨t, ht⟩ | ⟨hrefused, hreset, a, ha⟩ :=
    takeTurn_answers_or_refuses (s.turns.headD .engine) (s := { s with turns := s.turns.tail }) h
  · rw [step_eq, ht]
    exact ⟨nofun, nofun⟩
  · rw [step_eq, hrefused]
    exact ⟨nofun, fun r hr => ⟨(Host.Outcome.refused.inj hr).symm, hreset, a, turns_of_head_host ha⟩⟩

end Sys2Proof.Machine
end

/-! PROOFS. The engine's step (40_control.md R150, R153), and the acceptance of a command (R151). -/

section
namespace Sys2Proof.Machine

/-! ### The engine's step -/

theorem step_of_engineNext {s u : State} (h : engineNext s = some u) : step s = engineTurn u := by
  unfold engineNext at h
  split at h
  · next hturns => rw [← Option.some.inj h, step, hturns]
  · next rest hturns => rw [← Option.some.inj h, step_eq, hturns]; rfl
  · cases h

/-- Settles O6: the step is the engine's turn, which runs the pending word as the decoder reads it. -/
theorem engineStepRunsThePendingCommand : Obligations.EngineStepRunsThePendingCommand := by
  intro s u hu hrun
  rw [step_of_engineNext hu]
  refine ⟨fun c i hc hd => ?_, fun c w hc hd => ?_, engineTurn_idle⟩
  · rw [engineTurn_pending hrun hc, runCommand_ok hd]; rfl
  · rw [engineTurn_pending hrun hc, runCommand_illegal hd]; rfl

/-- A command that answers leaves an empty PENDING empty, whether it completes or raises an error. -/
theorem pending_of_runCommand {c : Word} {s t : State} (hs : s.pending = none) (h : runCommand c s = .next t) :
    t.pending = none := by
  obtain ⟨e, -, rfl⟩ | ⟨i, -, h⟩ := runCommand_next h
  · rfl
  obtain ⟨e, -, rfl⟩ | hkept := commandCompletesOrRaises i s t h
  · rfl
  · obtain ⟨-, -, -, -, hpending⟩ := hkept
    exact hpending.trans hs

/-- Settles O7: the engine takes the command out of PENDING, no command puts one there, and bit 0 of STATUS is BUSY. -/
theorem engineStepEndsTheCommand : Obligations.EngineStepEndsTheCommand := by
  intro s u t hu hrun ht
  rw [step_of_engineNext hu] at ht
  have hpending : t.pending = none := by
    cases hc : u.pending with
    | none => rw [engineTurn_idle hc] at ht; rw [next_eq ht]; exact hc
    | some c => rw [engineTurn_pending hrun hc] at ht; exact pending_of_runCommand rfl ht
  exact ⟨hpending, by rw [statusWord_getLsbD t 0]; simp [State.busy, hpending]⟩

/-- Settles O15: the three effects are their definitions, and with OUT_BYTES 0 no byte of OBUF is defined. -/
theorem nopAndRestartsComplete : Obligations.NopAndRestartsComplete :=
  fun _ => ⟨rfl, rfl, fun _ => obufCell_of_free (.inr (Nat.zero_le _)), rfl⟩

/-! ### The acceptance of a command -/

theorem served_cmd (cfg : Config) : served cfg 4 0x0010 = some .cmd := rfl

/-- Settles O38: the address of CMD is served for all parameters, and a write there has `presentCommand`'s two cases. -/
theorem commandWriteIsAcceptedOrDropped : Obligations.CommandWriteIsAcceptedOrDropped := by
  intro s c
  rw [access, served_cmd]
  simp only [writeTarget]
  obtain ⟨hbusy, h⟩ | ⟨hidle, hok, h⟩ := presentCommand_cases c s
  · rw [h]
    refine ⟨fun _ => rfl, fun hidle hok => ?_⟩
    rw [hidle, hok] at hbusy
    simp at hbusy
  · rw [h, hidle, hok]
    simp

end Sys2Proof.Machine
end

/-! PROOFS. No command's outcome depends on a free value when the host wrote its input (93_implementation_defined.md
U1, U2): what each command reads holds a value, so the command commutes with a change of the next free value. -/

section
namespace Sys2Proof.Machine

/-! ### The input stream (41_bitstream.md R161, R170) -/

theorem inBit_redrawn {s : State} (h : InputWritten s) (d : Nat) {p : Nat} (hp : p < avail s) (i : Nat) :
    inBit { s with draws := d } p i = inBit s p i := by
  have hbyte : p / 8 < s.inLen.toNat := by unfold avail at hp; omega
  exact congrArg (·.getLsbD (bitPos s.cfg.bitOrder (p % 8))) (byteCell_eq (h _ hbyte) _ s i)

theorem inBits_redrawn {s : State} (h : InputWritten s) (d : Nat) {n : Nat} (hn : s.rdPos.toNat + n ≤ avail s) :
    inBits { s with draws := d } n = inBits s n :=
  List.map_congr_left fun i hi => by
    have hi := List.mem_range.mp hi
    exact inBit_redrawn h d (p := s.rdPos.toNat + i) (by omega) i

theorem inputBytes_redrawn {s : State} (h : InputWritten s) (d : Nat) :
    inputBytes { s with draws := d } = inputBytes s :=
  List.map_congr_left fun k hk => byteCell_eq (h k (List.mem_range.mp hk)) _ s k

/-! ### The writer -/

theorem putBit_redrawn (b : Bool) (s : State) (d : Nat) :
    putBit b { s with draws := d } = { putBit b s with draws := d } := by
  by_cases h7 : s.wrNbits.toNat = 7
  · rw [putBit_emits b h7, putBit_emits (s := { s with draws := d }) b h7]; rfl
  · rw [putBit_keeps b h7, putBit_keeps (s := { s with draws := d }) b h7]

theorem putBits_redrawn (bits : List Bool) (s : State) (d : Nat) :
    putBits bits { s with draws := d } = { putBits bits s with draws := d } := by
  induction bits generalizing s with
  | nil => rfl
  | cons b bits ih => rw [putBits_cons, putBits_cons, putBit_redrawn, ih]

theorem flushed_redrawn (s : State) (d : Nat) : flushed { s with draws := d } = { flushed s with draws := d } := by
  unfold flushed
  split <;> rfl

/-! ### The histogram and the table -/

theorem HistOk.bins_defined {s : State} (h : HistOk s) : ∀ k, k < nsym → Cells.read s.hist k ≠ none := h.1

theorem countSym_redrawn {s : State} (h : ∀ k, k < nsym → Cells.read s.hist k ≠ none) (c : Byte) (d : Nat) :
    countSym c { s with draws := d } = { countSym c s with draws := d } := by
  have hcount : histCount { s with draws := d } c.toNat = histCount s c.toNat :=
    congrArg BitVec.toNat (countCell_eq (h _ c.isLt) _ s)
  rw [countSym, hcount]; rfl

theorem countSyms_redrawn (l : List Byte) {s : State} (h : ∀ k, k < nsym → Cells.read s.hist k ≠ none) (d : Nat) :
    l.foldl (fun u c => countSym c u) { s with draws := d }
      = { l.foldl (fun u c => countSym c u) s with draws := d } := by
  induction l generalizing s with
  | nil => rfl
  | cons c l ih =>
    rw [List.foldl_cons, List.foldl_cons, countSym_redrawn h, ih fun k hk => ?_]
    rw [countSym, Cells.read_write]
    split
    · nofun
    · exact h k hk

theorem binTotal_redrawn {s : State} (h : HistOk s) (c : Byte) (d : Nat) :
    binTotal c { s with draws := d } = binTotal c s := by
  rw [binTotal, histCount_redrawn h d c.isLt]; rfl

theorem freqTable_redrawn {s : State} (h : HistOk s) (d : Nat) : freqTable { s with draws := d } = freqTable s := by
  have hpairs : (List.range nsym).map (fun k => (histCount { s with draws := d } k, k))
      = (List.range nsym).map fun k => (histCount s k, k) :=
    List.map_congr_left fun k hk => by rw [histCount_redrawn h d (List.mem_range.mp hk)]
  rw [freqTable, histEntries, hpairs]; rfl

theorem tableMade_redrawn {s : State} (h : HistOk s) (d : Nat) :
    tableMade { s with draws := d } = { tableMade s with draws := d } := by
  rw [tableMade, tableMade, freqTable_redrawn h]

/-! ### The tree and its codes -/

theorem leafNode_redrawn {s : State} (h : TableOk s) (d : Nat) {i : Nat} (hi : i < nsym) :
    leafNode { s with draws := d } i = leafNode s i := by
  have hcnt : (countCell { s with draws := d } s.ftCnt i).toNat = (countCell s s.ftCnt i).toNat :=
    ftCntAt_redrawn h d hi
  have hsym : byteCell { s with draws := d } s.ftSym i i = byteCell s s.ftSym i i := ftSymAt_redrawn h d hi
  rw [leafNode, hcnt, hsym]; rfl

theorem builtNodes_redrawn {s : State} (h : TableOk s) (d : Nat) :
    builtNodes { s with draws := d } = builtNodes s := by
  have hleaves : (List.range s.nsyms.toNat).map (leafNode { s with draws := d })
      = (List.range s.nsyms.toNat).map (leafNode s) :=
    List.map_congr_left fun i hi => leafNode_redrawn h d ((List.mem_range.mp hi).trans_le h.nsyms_le)
  rw [builtNodes, hleaves]; rfl

theorem treeBuilt_redrawn {s : State} (h : TableOk s) (d : Nat) :
    treeBuilt { s with draws := d } = { treeBuilt s with draws := d } := by
  have hinfo : builtInfo { s with draws := d } = builtInfo s := funext fun j => by
    rw [builtInfo, builtNodes_redrawn h]; rfl
  have hweight : builtWeight { s with draws := d } = builtWeight s := funext fun j => by
    rw [builtWeight, builtNodes_redrawn h]; rfl
  rw [treeBuilt, treeBuilt, hinfo, hweight, builtNodes_redrawn h]

/-- The leaf a descent reaches is a node of the tree. -/
theorem TreeOk.descend_lt {s : State} (h : TreeOk s) {left j p k q : Nat} (hj : j < 2 * s.nsyms.toNat - 1)
    (hd : descend s left j p = some (k, q)) : k < 2 * s.nsyms.toNat - 1 := by
  induction left generalizing j p with
  | zero =>
    rw [descend] at hd
    split at hd
    · obtain ⟨rfl, -⟩ := Prod.mk.inj (Option.some.inj hd); exact hj
    · cases hd
  | succ left ih =>
    rw [descend] at hd
    split at hd
    · obtain ⟨rfl, -⟩ := Prod.mk.inj (Option.some.inj hd); exact hj
    · next hleaf => exact ih ((h.child_lt hj (by simpa using hleaf) _).trans hj) hd

theorem codesAssigned_redrawn (l : List Assignment) (s : State) (d : Nat) :
    codesAssigned l { s with draws := d } = { codesAssigned l s with draws := d } := by
  rw [codesAssigned, codesAssigned]

section Tree

variable {s : State} (ht : TableOk s) (h : TreeOk s)
include ht h

theorem nodeInfoAt_redrawn_of_lt (d : Nat) {j : Nat} (hj : j < 2 * s.nsyms.toNat - 1) :
    nodeInfoAt { s with draws := d } j = nodeInfoAt s j :=
  nodeInfoAt_redrawn h d (ht.lt_maxNodes hj)

/-- The walk reads only nodes of the tree. -/
theorem walk_redrawn (d : Nat) {depth j : Nat} (hj : j < 2 * s.nsyms.toNat - 1) (p : List Bool) :
    walk (nodeInfoAt { s with draws := d }) depth j p = walk (nodeInfoAt s) depth j p := by
  induction depth generalizing j p with
  | zero => rfl
  | succ depth ih =>
    rw [walk, walk, nodeInfoAt_redrawn_of_lt ht h d hj]
    cases hleaf : infoLeaf (nodeInfoAt s j) with
    | true => rfl
    | false =>
      have hleft : infoLeft (nodeInfoAt s j) < j := h.child_lt hj hleaf false
      have hright : infoRight (nodeInfoAt s j) < j := h.child_lt hj hleaf true
      rw [ih (hleft.trans hj), ih (hright.trans hj)]

theorem treeAssignments_redrawn (d : Nat) : treeAssignments { s with draws := d } = treeAssignments s := by
  unfold treeAssignments
  split
  · rfl
  · next hne =>
    have hroot := h.root_lt hne
    rw [nodeInfoAt_redrawn_of_lt ht h d hroot, walk_redrawn ht h d hroot]

/-- The descent reads only nodes of the tree and bits before the end of the stream (45_payload.md R271). -/
theorem descend_redrawn (hin : InputWritten s) (d : Nat) {left j p : Nat} (hj : j < 2 * s.nsyms.toNat - 1)
    (hp : 0 < left → p + left ≤ avail s) : descend { s with draws := d } left j p = descend s left j p := by
  induction left generalizing j p with
  | zero => rw [descend, descend, nodeInfoAt_redrawn_of_lt ht h d hj]
  | succ left ih =>
    have hend := hp (Nat.succ_pos left)
    have hbit := inBit_redrawn hin d (p := p) (by omega) (p - s.rdPos.toNat)
    rw [descend, descend, nodeInfoAt_redrawn_of_lt ht h d hj]
    simp only [hbit]
    cases hleaf : infoLeaf (nodeInfoAt s j) with
    | true => rfl
    | false =>
      have hchild := h.child_lt hj hleaf (inBit s p (p - s.rdPos.toNat))
      rw [ih (hchild.trans hj) fun _ => by omega]

theorem decoded_redrawn (d : Nat) {j : Nat} (hj : j < 2 * s.nsyms.toNat - 1) (p : Nat) :
    decoded { s with draws := d } j p = { decoded s j p with draws := d } := by
  rw [decoded, nodeInfoAt_redrawn_of_lt ht h d hj]; rfl

end Tree

/-! ### Each command commutes with a change of the next free value -/

/-- A command's outcome with d as the number of the next free value. -/
def redrawn (d : Nat) : Result → Result
  | .next s => .next { s with draws := d }
  | .fault f => .fault f
  | .refused r => .refused r

/-- A check that reads no free value: both runs raise its error, or both go on. -/
theorem check_redrawn {p : Prop} [Decidable p] {e : ErrCode} {c : Word} {s : State} {d : Nat} {rest' rest : Result}
    (h : ¬ p → rest' = redrawn d rest) :
    (if p then fail e c { s with draws := d } else rest') = redrawn d (if p then fail e c s else rest) := by
  by_cases hp : p
  · rw [if_pos hp, if_pos hp]; rfl
  · rw [if_neg hp, if_neg hp]; exact h hp

/-- A check that a flag is 1. -/
theorem check_flag_redrawn {b : Bool} {e : ErrCode} {c : Word} {s : State} {d : Nat} {rest' rest : Result}
    (h : b = true → rest' = redrawn d rest) :
    (if !b then fail e c { s with draws := d } else rest') = redrawn d (if !b then fail e c s else rest) :=
  check_redrawn fun hb => h (by simpa using hb)

section Commands

variable {s : State}

theorem writeSeq_redrawn (c : Word) (bits : List Bool) (d : Nat) :
    writeSeq c bits { s with draws := d } = redrawn d (writeSeq c bits s) := by
  refine check_redrawn fun _ => check_redrawn fun _ => ?_
  rw [putBits_redrawn]; rfl

theorem execFlush_redrawn (d : Nat) : execFlush { s with draws := d } = redrawn d (execFlush s) := by
  refine check_redrawn fun _ => ?_
  rw [flushed_redrawn]; rfl

theorem execClose_redrawn (d : Nat) : execClose { s with draws := d } = redrawn d (execClose s) := by
  by_cases hc : s.wrClosed = true
  · rw [execClose, execClose, if_pos hc, if_pos hc]; rfl
  · rw [execClose, execClose, if_neg hc, if_neg hc]
    refine check_redrawn fun _ => ?_
    rw [flushed_redrawn]; rfl

theorem execReadBits_redrawn (hin : InputWritten s) (n d : Nat) :
    execReadBits n { s with draws := d } = redrawn d (execReadBits n s) := by
  refine check_redrawn fun hn => ?_
  rw [inBits_redrawn hin d (Nat.le_of_not_gt hn)]; rfl

theorem execScanSym_redrawn (h : TableInv s) (c : Byte) (d : Nat) :
    execScanSym c { s with draws := d } = redrawn d (execScanSym c s) := by
  refine check_flag_redrawn fun hv => check_redrawn fun _ => ?_
  rw [countSym_redrawn (h.histOk hv).bins_defined]; rfl

theorem execScanBuf_redrawn (h : TableInv s) (hin : InputWritten s) (d : Nat) :
    execScanBuf { s with draws := d } = redrawn d (execScanBuf s) := by
  refine check_flag_redrawn fun hv => check_redrawn fun _ => ?_
  rw [inputBytes_redrawn hin, countSyms_redrawn _ (h.histOk hv).bins_defined]; rfl

theorem execSetBin_redrawn (h : TableInv s) (c : Byte) (d : Nat) :
    execSetBin c { s with draws := d } = redrawn d (execSetBin c s) := by
  refine check_flag_redrawn fun hv => ?_
  rw [binTotal_redrawn (h.histOk hv)]
  exact check_redrawn fun _ => rfl

theorem execMakeTable_redrawn (h : TableInv s) (d : Nat) :
    execMakeTable { s with draws := d } = redrawn d (execMakeTable s) :=
  check_flag_redrawn fun hv => congrArg Host.Outcome.next (tableMade_redrawn (h.histOk hv) d)

theorem execBuildTree_redrawn (h : TableInv s) (d : Nat) :
    execBuildTree { s with draws := d } = redrawn d (execBuildTree s) :=
  check_flag_redrawn fun hv => congrArg Host.Outcome.next (treeBuilt_redrawn (h.tableOk hv) d)

theorem execAssignCodes_redrawn (h : TreeInv s) (d : Nat) :
    execAssignCodes { s with draws := d } = redrawn d (execAssignCodes s) := by
  refine check_flag_redrawn fun hv => ?_
  rw [treeAssignments_redrawn (h.tableOk hv) (h.treeOk hv)]
  cases treeAssignments s with
  | none => rfl
  | some l => exact congrArg Host.Outcome.next (codesAssigned_redrawn l s d)

theorem execWriteCode_redrawn (h : CodesInv s) (c : Byte) (d : Nat) :
    execWriteCode c { s with draws := d } = redrawn d (execWriteCode c s) := by
  refine check_redrawn fun _ => check_flag_redrawn fun hv => ?_
  have hcodes : CodesOk s := h.2 hv
  rw [codeLength_redrawn hcodes, codeSeq_redrawn hcodes]
  exact check_redrawn fun _ => writeSeq_redrawn _ _ d

theorem execDecodeSym_redrawn (h : TreeInv s) (hin : InputWritten s) (d : Nat) :
    execDecodeSym { s with draws := d } = redrawn d (execDecodeSym s) := by
  refine check_redrawn fun hready => ?_
  obtain ⟨hv, hne⟩ : s.treeValid = true ∧ s.nnodes ≠ 0 := by simpa using hready
  have ht := h.tableOk hv
  have htree := h.treeOk hv
  have hroot := htree.root_lt hne
  rw [nodeInfoAt_redrawn_of_lt ht htree d hroot]
  cases hleaf : infoLeaf (nodeInfoAt s s.root.toNat) with
  | true =>
    refine check_redrawn fun hav => ?_
    have hav : s.rdPos.toNat + 1 ≤ avail s := Nat.le_of_not_gt hav
    rw [inBit_redrawn hin d (p := s.rdPos.toNat) hav]
    exact check_redrawn fun _ => congrArg Host.Outcome.next (decoded_redrawn ht htree d hroot _)
  | false =>
    have havail : avail { s with draws := d } = avail s := rfl
    have hd := descend_redrawn ht htree hin d (left := avail s - s.rdPos.toNat) (p := s.rdPos.toNat) hroot
      fun hpos => by omega
    simp only [havail, hd]
    cases hreach : descend s (avail s - s.rdPos.toNat) s.root.toNat s.rdPos.toNat with
    | none => rfl
    | some e =>
      exact congrArg Host.Outcome.next (decoded_redrawn ht htree d (htree.descend_lt hroot hreach) e.2)

/-- Where the host wrote the input, a command answers the same whatever free values it would draw. -/
theorem exec_redrawn (h : CodesInv s) (hin : InputWritten s) (i : Instr) (d : Nat) :
    exec i { s with draws := d } = redrawn d (exec i s) := by
  cases i with
  | nop | wrReset | rdReset | rdAlign | clearHist => rfl
  | writeBit b | writeBits n => exact writeSeq_redrawn _ _ d
  | flush => exact execFlush_redrawn d
  | close => exact execClose_redrawn d
  | readBits n => exact execReadBits_redrawn hin n d
  | scanSym c => exact execScanSym_redrawn h.tableInv c d
  | scanBuf => exact execScanBuf_redrawn h.tableInv hin d
  | setBin c => exact execSetBin_redrawn h.tableInv c d
  | makeTable => exact execMakeTable_redrawn h.tableInv d
  | buildTree => exact execBuildTree_redrawn h.tableInv d
  | assignCodes => exact execAssignCodes_redrawn h.1 d
  | writeCode c => exact execWriteCode_redrawn h c d
  | decodeSym => exact execDecodeSym_redrawn h.1 hin d

end Commands

/-- Settles O55: a command commutes with a change of the next free value, so a next state it answers is the same but
for the counter. -/
theorem commandsAreDeterminedByWrittenState : Obligations.CommandsAreDeterminedByWrittenState := by
  intro i s t d h hin ht
  rw [exec_redrawn h hin i d, ht]
  rfl

end Sys2Proof.Machine
end

/-! PROOFS. The bit-stream buffer (41_bitstream.md): appending bits to the output stream composes (`Appends`), and PutBit
and the emission of a byte append; the reader's commands; and the two ends of a copy from OBUF to IBUF. -/

section
namespace Sys2Proof.Machine

/-! ### The output stream (41_bitstream.md R160, R174) -/

theorem length_outStream (s : State) : (outStream s).length = outLength s := by simp [outStream]

theorem outStream_eq_append {s t : State} {bits : List Bool} (hlen : outLength t = outLength s + bits.length)
    (hold : ∀ k, k < outLength s → outBit t k = outBit s k)
    (hnew : ∀ j (hj : j < bits.length), outBit t (outLength s + j) = bits[j]) :
    outStream t = outStream s ++ bits := by
  unfold outStream
  rw [hlen, List.range_add, List.map_append, List.map_map]
  congr 1
  · exact List.map_congr_left fun k hk => hold k (List.mem_range.mp hk)
  · exact List.ext_getElem (by simp) fun j _ hj => by simpa using hnew j hj

/-- The bits of the partial byte stand in WR_ACC. -/
theorem outBit_partial (s : State) {j : Nat} (hj : j < 8) :
    outBit s (8 * s.outBytes.toNat + j) = s.wrAcc.getLsbD (bitPos s.cfg.bitOrder j) := by
  rw [outBit, if_neg (by omega), show (8 * s.outBytes.toNat + j) % 8 = j by omega]

/-- t is s with the bits appended to the output stream, and nothing else changed. -/
def Appends (bits : List Bool) (s t : State) : Prop := outStream t = outStream s ++ bits ∧ WriterFrame s t

theorem Appends.refl (s : State) : Appends [] s s := ⟨(List.append_nil _).symm, rfl, fun _ _ => rfl⟩

theorem Appends.outBytes_le {bits : List Bool} {s t : State} (h : Appends bits s t) :
    s.outBytes.toNat ≤ t.outBytes.toNat := by
  have hlen := congrArg List.length h.1
  simp only [List.length_append, length_outStream, outLength] at hlen
  have := t.wrNbits.isLt
  omega

theorem Appends.trans {xs ys : List Bool} {s t u : State} (hst : Appends xs s t) (htu : Appends ys t u) :
    Appends (xs ++ ys) s u := by
  have hle := hst.outBytes_le
  have hle' := htu.outBytes_le
  obtain ⟨hxs, ht, hcells⟩ := hst
  obtain ⟨hys, hu, hcells'⟩ := htu
  refine ⟨by rw [hys, hxs, List.append_assoc], ?_, fun k hk => ?_⟩
  · exact hu.trans (congrArg (fun v : State =>
      { v with obuf := u.obuf, outBytes := u.outBytes, wrAcc := u.wrAcc, wrNbits := u.wrNbits }) ht)
  · rw [hcells' k (by omega), hcells k (by omega)]

/-! ### Emitting a byte (41_bitstream.md R162, R167) -/

theorem byteCell_write (s : State) (m : Cells Byte) (c : Nat) (v : Byte) (k i : Nat) :
    byteCell s (Cells.write m c v) k i = if k = c then v else byteCell s m k i := by
  unfold byteCell
  rw [Cells.read_write]
  by_cases hk : k = c
  · rw [if_pos hk, if_pos hk]
  · rw [if_neg hk, if_neg hk]

section Emit

variable {s : State} (hwf : s.cfg.wf = true) (hroom : s.outBytes.toNat < s.cfg.obufSize)
include hwf hroom

theorem emitByte_outBytes_toNat : (emitByte s).outBytes.toNat = s.outBytes.toNat + 1 := by
  have hsize := config_bounds hwf
  rw [emitByte_outBytes, BitVec.toNat_ofNat]
  omega

theorem outLength_emitByte : outLength (emitByte s) = 8 * s.outBytes.toNat + 8 := by
  rw [outLength, emitByte_outBytes_toNat hwf hroom, Nat.mul_add]; rfl

/-- The emitted byte has the bits WR_ACC had. -/
theorem outBit_emitByte {k : Nat} (hk : k < 8 * s.outBytes.toNat + 8) : outBit (emitByte s) k = outBit s k := by
  unfold outBit
  rw [emitByte_outBytes_toNat hwf hroom, if_pos (by omega), emitByte_obuf, byteCell_write, emitByte_cfg]
  by_cases hlt : k / 8 < s.outBytes.toNat
  · rw [if_neg (by omega), if_pos hlt]; rfl
  · rw [if_pos (by omega), if_neg hlt]

theorem writerFrame_emitByte : WriterFrame s (emitByte s) := by
  refine ⟨rfl, fun k hk => ?_⟩
  rw [emitByte_outBytes_toNat hwf hroom] at hk
  exact Cells.read_write_ne _ _ (by omega)

/-- Emitting the partial byte appends what its places from WR_NBITS on hold. -/
theorem appends_emitByte {bits : List Bool} (hlen : s.wrNbits.toNat + bits.length = 8)
    (hbits : ∀ j (hj : j < bits.length), outBit s (outLength s + j) = bits[j]) : Appends bits s (emitByte s) := by
  have hs : outLength s + bits.length = 8 * s.outBytes.toNat + 8 := by unfold outLength; omega
  refine ⟨outStream_eq_append (by rw [outLength_emitByte hwf hroom, hs]) (fun k hk => ?_) (fun j hj => ?_),
    writerFrame_emitByte hwf hroom⟩
  · exact outBit_emitByte hwf hroom (by omega)
  · rw [outBit_emitByte hwf hroom (by omega), hbits j hj]

end Emit

/-! ### PutBit (41_bitstream.md R162) -/

theorem getLsbD_setBit_same (v : Byte) {i : Nat} (hi : i < 8) (b : Bool) : (setBit v i b).getLsbD i = b := by
  cases b <;> simp [setBit, hi]

/-- PutBit's first assignment, `WR_ACC[pos(WR_NBITS)] <- b`. -/
def placeBit (b : Bool) (s : State) : State :=
  { s with wrAcc := setBit s.wrAcc (bitPos s.cfg.bitOrder s.wrNbits.toNat) b }

/-- The placed bit follows the output stream. -/
theorem outBit_placeBit_next (b : Bool) (s : State) : outBit (placeBit b s) (outLength s) = b :=
  (outBit_partial (placeBit b s) s.wrNbits.isLt).trans (getLsbD_setBit_same _ (bitPos_lt _ s.wrNbits.isLt) b)

theorem outBit_placeBit_of_lt (b : Bool) {s : State} {k : Nat} (hk : k < outLength s) :
    outBit (placeBit b s) k = outBit s k := by
  unfold outLength at hk
  have hlt := s.wrNbits.isLt
  by_cases hbyte : k / 8 < s.outBytes.toNat
  · rw [outBit, outBit, if_pos hbyte, if_pos (show k / 8 < (placeBit b s).outBytes.toNat from hbyte)]; rfl
  · obtain ⟨j, rfl⟩ : ∃ j, k = 8 * s.outBytes.toNat + j := ⟨k - 8 * s.outBytes.toNat, by omega⟩
    have hne : bitPos s.cfg.bitOrder j ≠ bitPos s.cfg.bitOrder s.wrNbits.toNat :=
      fun he => absurd (bitPos_inj _ (by omega) hlt he) (by omega)
    rw [outBit_partial s (by omega)]
    exact (outBit_partial (placeBit b s) (by omega)).trans (getLsbD_setBit_ne _ (bitPos_lt _ (by omega)) b hne)

theorem outStream_placeBit (b : Bool) (s : State) : outStream (placeBit b s) = outStream s :=
  List.map_congr_left fun _ hk => outBit_placeBit_of_lt b (List.mem_range.mp hk)

theorem appends_putBit (b : Bool) {s : State} (hwf : s.cfg.wf = true)
    (hroom : s.wrNbits.toNat = 7 → s.outBytes.toNat < s.cfg.obufSize) : Appends [b] s (putBit b s) := by
  have hnext : ∀ j (hj : j < [b].length), outBit (placeBit b s) (outLength s + j) = [b][j] := by
    intro j hj
    obtain rfl : j = 0 := by simpa using hj
    exact outBit_placeBit_next b s
  by_cases h7 : s.wrNbits.toNat = 7
  · have hput : putBit b s = emitByte (placeBit b s) := by rw [putBit_emits b h7, placeBit, h7]
    obtain ⟨hstream, hframe⟩ := appends_emitByte (s := placeBit b s) hwf (hroom h7) (bits := [b])
      (by simp [placeBit, h7]) hnext
    rw [hput]
    exact ⟨by rw [hstream, outStream_placeBit], hframe⟩
  · rw [putBit_keeps b h7]
    refine ⟨outStream_eq_append ?_ (fun k hk => outBit_placeBit_of_lt b hk) hnext, rfl, fun _ _ => rfl⟩
    have hlt := s.wrNbits.isLt
    simp only [outLength, BitVec.toNat_ofNat, List.length_singleton]
    omega

theorem appends_putBits {bits : List Bool} {s : State} (hwf : s.cfg.wf = true) (hfit : WriteFits bits s) :
    Appends bits s (putBits bits s) := by
  induction bits generalizing s with
  | nil => exact .refl s
  | cons b bits ih =>
    obtain ⟨hroom, hfit'⟩ := hfit.cons
    have hput := appends_putBit b hwf hroom
    have hwf' : (putBit b s).cfg.wf = true := by rw [putBit_frame]; exact hwf
    exact hput.trans (ih hwf' hfit')

/-- WriteSeq's three outcomes, each under its own condition (41_bitstream.md R163). -/
theorem writeSeq_appends (c : Word) (bits : List Bool) {s : State} (hwf : s.cfg.wf = true) :
    (s.wrClosed = true → writeSeq c bits s = .next (raise .writeClosed c s))
      ∧ (s.wrClosed = false → s.cfg.obufSize < s.outBytes.toNat + (s.wrNbits.toNat + bits.length) / 8 →
          writeSeq c bits s = .next (raise .obufFull c s))
      ∧ (s.wrClosed = false → s.outBytes.toNat + (s.wrNbits.toNat + bits.length) / 8 ≤ s.cfg.obufSize →
          ∃ t, writeSeq c bits s = .next t ∧ Appends bits s t) := by
  obtain ⟨hc, he⟩ | ⟨ho, hfull, he⟩ | ⟨ho, hfit, he⟩ := writeSeq_cases c bits s
  · simp [hc, he, fail_eq]
  · exact ⟨by simp [ho], fun _ _ => he, fun _ hfit => absurd hfull (by omega)⟩
  · exact ⟨by simp [ho], fun _ hfull => absurd hfull (by omega), fun _ _ => ⟨_, he, appends_putBits hwf ⟨ho, hfit⟩⟩⟩

/-- Settles O16: WRITE_BIT and WRITE_BITS are WriteSeq of their bits, and each PutBit appends its bit. -/
theorem writeBitsAppendToTheStream : Obligations.WriteBitsAppendToTheStream := by
  intro i bits s hwf _ hbits
  have hexec : exec i s = writeSeq (encode i) bits s := by
    obtain ⟨b, rfl, rfl⟩ | ⟨n, rfl, hlen, hget⟩ := hbits
    · rfl
    · have harg : argBits s.arg n = bits := by
        refine List.ext_getElem (by simp [argBits, hlen]) fun k _ hk => ?_
        have := hget k (hlen ▸ hk)
        simpa [argBits, List.getElem?_eq_getElem hk] using this.symm
      exact harg ▸ rfl
  rw [hexec]
  exact writeSeq_appends (encode i) bits hwf

/-! ### FLUSH and CLOSE (41_bitstream.md R167, R168) -/

theorem flushOverflows_iff (s : State) :
    flushOverflows s = true ↔ s.wrNbits ≠ 0 ∧ s.cfg.obufSize < s.outBytes.toNat + 1 := by
  simp [flushOverflows]

theorem flushOverflows_eq_false_iff (s : State) :
    flushOverflows s = false ↔ s.wrNbits = 0 ∨ s.outBytes.toNat + 1 ≤ s.cfg.obufSize := by
  rw [← Bool.not_eq_true, flushOverflows_iff, not_and_or, not_not, not_lt]

theorem execFlush_of_overflow {s : State} (h : flushOverflows s = true) :
    execFlush s = .next (raise .obufFull (encode .flush) s) := if_pos h

theorem execFlush_of_room {s : State} (h : flushOverflows s = false) : execFlush s = .next (flushed s) :=
  if_neg (by simp [h])

theorem execClose_of_closed {s : State} (h : s.wrClosed = true) : execClose s = .next s := if_pos h

theorem execClose_of_overflow {s : State} (ho : s.wrClosed = false) (h : flushOverflows s = true) :
    execClose s = .next (raise .obufFull (encode .close) s) := by
  simp [execClose, ho, h, fail_eq]

theorem execClose_of_room {s : State} (ho : s.wrClosed = false) (h : flushOverflows s = false) :
    execClose s = .next { flushed s with wrClosed := true } := by
  simp [execClose, ho, h]

theorem bitPos_bitPos (o : BitOrder) {i : Nat} (hi : i < 8) : bitPos o (bitPos o i) = i := by
  cases o with
  | msbFirst => simp only [bitPos]; omega
  | lsbFirst => rfl

/-- At a byte boundary WR_ACC holds no bit (10_state.md R47). -/
theorem WriterInv.wrAcc_eq_zero {s : State} (h : WriterInv s) (h0 : s.wrNbits = 0) : s.wrAcc = 0 := by
  obtain ⟨-, -, hacc, -, -⟩ := h
  refine BitVec.eq_of_getLsbD_eq fun i hi => ?_
  have hz := hacc (bitPos s.cfg.bitOrder i) (bitPos_lt _ hi) (by rw [h0]; exact Nat.zero_le _)
  rw [bitPos_bitPos _ hi] at hz
  exact hz.trans BitVec.getLsbD_zero.symm

/-- FLUSH's effect appends the zero bits up to the next byte boundary. -/
theorem appends_flushed {s : State} (h : WriterInv s) (hroom : flushOverflows s = false) :
    Appends (List.replicate ((8 - s.wrNbits.toNat) % 8) false) s (flushed s) := by
  obtain ⟨h0, he⟩ | ⟨hn, he⟩ := flushed_cases s
  · rw [he, h0]; exact .refl s
  · rw [he]
    obtain ⟨hwf, -, hacc, -, -⟩ := h
    have hlt := s.wrNbits.isLt
    have hpos : s.wrNbits.toNat ≠ 0 := fun h0 => hn (BitVec.eq_of_toNat_eq h0)
    have hfree : s.outBytes.toNat + 1 ≤ s.cfg.obufSize := ((flushOverflows_eq_false_iff s).mp hroom).resolve_left hn
    refine appends_emitByte hwf hfree (by rw [List.length_replicate]; omega) fun j hj => ?_
    rw [List.length_replicate] at hj
    rw [List.getElem_replicate, outLength, Nat.add_assoc, outBit_partial s (by omega)]
    exact hacc _ (by omega) (by omega)

/-- Settles O18: with a partial byte, FLUSH's effect is the emission of WR_ACC, whose places from WR_NBITS on are 0. -/
theorem flushPadsWithZeroBits : Obligations.FlushPadsWithZeroBits := by
  intro s h
  refine ⟨fun h0 => ?_, fun hn hfull => execFlush_of_overflow ((flushOverflows_iff s).mpr ⟨hn, hfull⟩),
    fun hn hfree => ?_⟩
  · have hroom := (flushOverflows_eq_false_iff s).mpr (.inl h0)
    exact (execFlush_of_room hroom).trans (by rw [flushed, if_pos h0])
  · have hroom := (flushOverflows_eq_false_iff s).mpr (.inr hfree)
    have he : flushed s = emitByte s := if_neg hn
    have hpad := appends_flushed h hroom
    have hpos : s.wrNbits.toNat ≠ 0 := fun h0 => hn (BitVec.eq_of_toNat_eq h0)
    rw [Nat.mod_eq_of_lt (by omega), he] at hpad
    exact ⟨_, (execFlush_of_room hroom).trans (by rw [he]), emitByte_outBytes_toNat h.1 hfree, rfl, rfl, hpad⟩

/-- Settles O19: CLOSE of an open writer is FLUSH's effect and the flag, and FLUSH leaves a byte boundary. -/
theorem closeFlushesAndCloses : Obligations.CloseFlushesAndCloses := by
  intro s h
  refine ⟨execClose_of_closed, fun ho hn hfull => execClose_of_overflow ho ((flushOverflows_iff s).mpr ⟨hn, hfull⟩),
    fun ho hor => ?_⟩
  have hroom := (flushOverflows_eq_false_iff s).mpr hor
  obtain ⟨hinv, h0⟩ := writerInv_flushed h hroom
  obtain ⟨hstream, hframe⟩ := appends_flushed h hroom
  have hreopen : ({ flushed s with wrClosed := s.wrClosed } : State) = flushed s := by rw [flushed_frame]
  refine ⟨_, execClose_of_room ho hroom, rfl, h0, hinv.wrAcc_eq_zero h0, ?_, hstream, ?_⟩
  · simp [outLength, h0]
  · exact hreopen.symm ▸ hframe

/-! ### The reader's commands (41_bitstream.md R171, R172) -/

/-- The k-th bit of a sequence of n bits is bit n - 1 - k of the number the sequence spells. -/
theorem testBit_bitsToNat_of_lt {bits : List Bool} {n k : Nat} (hn : bits.length = n) (hk : k < bits.length) :
    (bitsToNat bits).testBit (n - 1 - k) = bits[k] := by
  subst hn
  have hrev := testBit_bitsToNat_reverse bits.reverse (bits.length - 1 - k)
  rw [List.reverse_reverse, List.getD_eq_getElem?_getD, List.getElem?_reverse (by omega),
    show bits.length - 1 - (bits.length - 1 - k) = k by omega, List.getElem?_eq_getElem hk] at hrev
  exact hrev

theorem testBit_bitsToNat_of_le {bits : List Bool} {m : Nat} (hm : bits.length ≤ m) :
    (bitsToNat bits).testBit m = false := by
  have hrev := testBit_bitsToNat_reverse bits.reverse m
  rw [List.reverse_reverse, List.getD_eq_default _ _ (by rwa [List.length_reverse])] at hrev
  exact hrev

theorem length_inBits (s : State) (n : Nat) : (inBits s n).length = n := by simp [inBits]

/-- Settles O20: RESULT is the number the n bits spell, and neither register overflows. -/
theorem readBitsTakesTheNextBits : Obligations.ReadBitsTakesTheNextBits := by
  intro n s hn
  have hlen := length_inBits s n
  refine ⟨fun hav => if_pos hav, fun hav => ⟨_, if_neg (by omega), fun k hk => ?_, fun k hk => ?_, ?_, rfl⟩⟩
  · simp only [Instr.wf, countOk, Bool.and_eq_true, decide_eq_true_eq] at hn
    rw [BitVec.getLsbD_ofNat, decide_eq_true (by omega), Bool.true_and, testBit_bitsToNat_of_lt hlen (by omega)]
    simp [inBits]
  · rw [BitVec.getLsbD_ofNat, testBit_bitsToNat_of_le (by omega), Bool.and_false]
  · have hbound := s.inLen.isLt
    unfold avail at hav
    rw [BitVec.toNat_ofNat]
    omega

/-- RD_ALIGN moves RD_POS to q, the next multiple of 8 where that fits 16 bits. -/
theorem execRdAlign_eq {s : State} {q : BitVec 16} (hq : q.toNat = (s.rdPos.toNat + 7) / 8 * 8) :
    execRdAlign s = .next { s with rdPos := q } := by
  rw [execRdAlign, ← hq, BitVec.ofNat_toNat, BitVec.setWidth_eq]

/-- Settles O21: the next multiple of 8 fits RD_POS, and a multiple of 8 is its own. -/
theorem readAlignRoundsUp : Obligations.ReadAlignRoundsUp := by
  rintro s ⟨hwf, -, hpos⟩
  have hsize := config_bounds hwf
  obtain ⟨q, hq⟩ : ∃ q : BitVec 16, q.toNat = (s.rdPos.toNat + 7) / 8 * 8 :=
    ⟨BitVec.ofNat 16 _, by rw [BitVec.toNat_ofNat]; exact Nat.mod_eq_of_lt (by omega)⟩
  have hagain : q.toNat = (q.toNat + 7) / 8 * 8 := by omega
  refine ⟨{ s with rdPos := q }, execRdAlign_eq hq, rfl, ?_⟩
  dsimp only
  exact ⟨by omega, by omega, by omega, execRdAlign_eq (s := { s with rdPos := q }) hagain, by omega⟩

/-! ### The copy from OBUF to IBUF (41_bitstream.md R173) -/

/-- Cells 0 to n-1 written in order. -/
theorem Cells.read_foldl_write {α : Type} (f : Nat → α) (n : Nat) (m : Cells α) (k : Nat) :
    Cells.read ((List.range n).foldl (fun m k => Cells.write m k (f k)) m) k
      = if k < n then some (f k) else Cells.read m k := by
  induction n with
  | zero => rfl
  | succ n ih =>
    rw [List.range_succ, List.foldl_append, List.foldl_cons, List.foldl_nil, Cells.read_write, ih]
    obtain hlt | rfl | hgt := Nat.lt_trichotomy k n
    · rw [if_neg (by omega), if_pos hlt, if_pos (by omega)]
    · rw [if_pos rfl, if_pos (by omega)]
    · rw [if_neg (by omega), if_neg (by omega), if_neg (by omega)]

/-- Settles O22: the copy puts every byte of OBUF at its own index in IBUF, and both ends use the same pos. -/
theorem readerSeesWhatTheWriterWrote : Obligations.ReaderSeesWhatTheWriterWrote := by
  rintro s ⟨hwf, -, -, -, -⟩ hfits
  have hsize := config_bounds hwf
  refine ⟨?_, fun k i hk => ?_⟩
  · rw [avail, copyBack, BitVec.toNat_ofNat]
    omega
  · have hbyte : k / 8 < s.outBytes.toNat := by omega
    have hcell : Cells.read (copyBack s).ibuf (k / 8) = some (byteCell s s.obuf (k / 8) (k / 8)) := by
      rw [copyBack, Cells.read_foldl_write, if_pos hbyte]
    rw [inBit, byteCell_of_some hcell, outBit, if_pos hbyte]
    rfl

end Sys2Proof.Machine
end

/-! PROOFS. The frequency scanner (42_frequency.md): the four commands that write HIST, and MAKE_TABLE. -/

section
namespace Sys2Proof.Machine

/-! ### HistChanged (42_frequency.md R205) -/

/-- Every command that writes HIST ends with HistChanged(). -/
theorem histWriter_histChanged {i : Instr} {s t : State} (hi : HistWriter i) (h : Completes i s t) :
    ∃ u, t = histChanged u := by
  obtain rfl | rfl | ⟨c, rfl | rfl⟩ := hi
  · exact ⟨_, h⟩
  · obtain ⟨-, -, h⟩ := h; exact ⟨_, h⟩
  · obtain ⟨-, -, h⟩ := h; exact ⟨_, h⟩
  · obtain ⟨-, -, -, h⟩ := h; exact ⟨_, h⟩

/-- Settles O14: a command that raised no error completed, and a HIST writer completes with HistChanged(). -/
theorem histWritersInvalidateDerivations : Obligations.HistWritersInvalidateDerivations := by
  intro i s t hi h hne
  obtain ⟨e, -, he⟩ | hc := exec_next h
  · exact absurd he (hne e)
  · obtain ⟨u, rfl⟩ := histWriter_histChanged hi hc
    exact ⟨rfl, rfl, rfl⟩

/-- Settles O23: CLEAR_HIST has no check, and its fill holds 0 in every bin. -/
theorem clearHistZeroesTheHistogram : Obligations.ClearHistZeroesTheHistogram := by
  refine fun s => ⟨_, rfl, fun k hk => ?_, rfl, rfl, rfl⟩
  exact (Cells.read_fill nsym (fun _ => 0) k).trans (if_pos hk)

/-! ### The commands that count (42_frequency.md R201-R203) -/

/-- The two checks of a command that counts, in their order: HIST_VALID, then that the counts stay within CMAX. -/
theorem countChecks_outcomes {p : Prop} [Decidable p] {r : Result} {c : Word} {s t : State}
    (hr : r = if !s.histValid then fail .notReady c s else if p then fail .countOverflow c s else .next t) :
    (s.histValid = false → r = .next (raise .notReady c s))
      ∧ (s.histValid = true → p → r = .next (raise .countOverflow c s))
      ∧ (s.histValid = true → ¬ p → r = .next t) := by
  subst hr
  refine ⟨fun hv => ?_, fun hv hp => ?_, fun hv hp => ?_⟩
  · rw [hv]; rfl
  · rw [hv, if_neg (by decide), if_pos hp]; rfl
  · rw [hv, if_neg (by decide), if_neg hp]

theorem TableInv.cfg_wf {s : State} (h : TableInv s) : s.cfg.wf = true := h.1

theorem HistOk.histCount_le {s : State} (h : HistOk s) (c : Byte) : histCount s c.toNat ≤ s.total.toNat :=
  histCount_le_of_binsSum h.binsSum c.isLt

/-- Counting a symbol adds 1 to its bin, where the count fits. -/
theorem histCount_countSym {c : Byte} {s : State} (hwf : s.cfg.wf = true)
    (hmax : histCount s c.toNat + 1 ≤ s.cfg.cmax) (k : Nat) :
    histCount (countSym c s) k = histCount s k + if c.toNat = k then 1 else 0 := by
  have hcell : histCount (countSym c s) k
      = (if k = c.toNat then storeCount s.cfg (histCount s c.toNat + 1) else countCell s s.hist k).toNat :=
    congrArg BitVec.toNat (countCell_write s s.hist c.toNat _ k)
  rw [hcell]
  by_cases hk : c.toNat = k
  · subst hk; rw [if_pos rfl, if_pos rfl, storeCount_of_le hwf hmax]
  · rw [if_neg (Ne.symm hk), if_neg hk]; rfl

/-- Counting a list of symbols adds to each bin the number of its symbols, where the sum fits. -/
theorem histCount_countSyms (l : List Byte) {s : State} {n : Nat} (hwf : s.cfg.wf = true) (h : BinsSum s n)
    (hmax : n + l.length ≤ s.cfg.cmax) (k : Nat) :
    histCount (l.foldl (fun u c => countSym c u) s) k = histCount s k + l.countP fun c => c.toNat == k := by
  induction l generalizing s n with
  | nil => rfl
  | cons c l ih =>
    rw [List.length_cons] at hmax
    have hle := histCount_le_of_binsSum h c.isLt
    have hrest := ih (s := countSym c s) hwf (binsSum_countSym hwf h (by omega) c) (by rw [countSym_cfg]; omega)
    rw [histCount_countSym hwf (by omega)] at hrest
    rw [List.foldl_cons, hrest, List.countP_cons]
    simp only [beq_iff_eq]
    omega

/-- Settles O24: the bin is at most TOTAL, so its count fits where TOTAL's does. -/
theorem scanSymCountsOne : Obligations.ScanSymCountsOne := by
  intro c s hs
  have hwf := hs.cfg_wf
  obtain ⟨hready, hover, hcount⟩ := countChecks_outcomes (r := exec (.scanSym c) s) rfl
  refine ⟨hready, hover, fun hv hmax => ⟨_, hcount hv (by omega), ?bin, fun k hk => ?others, ?total, rfl⟩⟩
  case bin =>
    have hle := (hs.histOk hv).histCount_le c
    exact (histCount_countSym hwf (by omega) c.toNat).trans (by rw [if_pos rfl])
  case others => exact Cells.read_write_ne s.hist _ hk
  case total => exact storeCount_of_le hwf hmax

/-- SCAN_BUF's bytes counted by their places in IBUF. -/
theorem countP_inputBytes (s : State) (k : Nat) : (inputBytes s).countP (fun c => c.toNat == k)
    = ((List.range s.inLen.toNat).filter fun j => (byteCell s s.ibuf j j).toNat == k).length := by
  rw [inputBytes, List.countP_map, List.countP_eq_length_filter]; rfl

theorem length_inputBytes (s : State) : (inputBytes s).length = s.inLen.toNat := by simp [inputBytes]

/-- Settles O25: by induction on the bytes, every bin staying at most the sum of the bins. -/
theorem scanBufCountsEveryByte : Obligations.ScanBufCountsEveryByte := by
  intro s hs
  have hwf := hs.cfg_wf
  obtain ⟨hready, hover, hcount⟩ := countChecks_outcomes (r := exec .scanBuf s) rfl
  refine ⟨hready, hover, fun hv hmax => ⟨_, hcount hv (by omega), fun k _ => ?bins, ?total, ?frame⟩⟩
  case bins =>
    have hbins := histCount_countSyms (inputBytes s) hwf (hs.histOk hv).binsSum (by rwa [length_inputBytes]) k
    rw [countP_inputBytes] at hbins
    exact hbins
  case total => exact storeCount_of_le hwf hmax
  case frame => rw [countSyms_frame]; rfl

/-- TOTAL is at least each bin, so the subtraction on naturals is exact. -/
theorem binTotal_add_histCount {s : State} (h : HistOk s) (c : Byte) :
    binTotal c s + histCount s c.toNat = s.total.toNat + s.arg.toNat := by
  have hle := h.histCount_le c
  unfold binTotal; omega

/-- Settles O26: both forms of the overflow check agree, and within CMAX ARG and the new TOTAL are stored whole. -/
theorem setBinReplacesTheCount : Obligations.SetBinReplacesTheCount := by
  intro c s hs
  have hwf := hs.cfg_wf
  obtain ⟨hready, hover, hset⟩ := countChecks_outcomes (r := exec (.setBin c) s) rfl
  refine ⟨hready, fun hv hmax => ?overflow, fun hv harg hmax => ?fits⟩
  case overflow =>
    have htotal := binTotal_add_histCount (hs.histOk hv) c
    exact hover hv (by omega)
  case fits =>
    have htotal := binTotal_add_histCount (hs.histOk hv) c
    have hfits : binTotal c s ≤ s.cfg.cmax := by omega
    have hstored : storeCount s.cfg s.arg.toNat = s.arg := BitVec.eq_of_toNat_eq (storeCount_of_le hwf harg)
    refine ⟨_, hset hv (by omega), ?_, fun k hk => Cells.read_write_ne s.hist _ hk, ?_, rfl⟩
    · exact (Cells.read_write_same s.hist _ _).trans (congrArg some hstored)
    · exact (congrArg (· + histCount s c.toNat) (storeCount_of_le hwf hfits)).trans htotal

/-! ### MAKE_TABLE (42_frequency.md R204) -/

theorem execMakeTable_of_valid {s : State} (hv : s.histValid = true) : execMakeTable s = .next (tableMade s) :=
  if_neg (by simp [hv])

/-- MAKE_TABLE reads nothing it writes. -/
theorem tableMade_tableMade (s : State) : tableMade (tableMade s) = tableMade s := rfl

theorem tableMade_result (s : State) : (tableMade s).result.toNat = (freqTable s).length := by
  have h : (tableMade s).result = BitVec.ofNat 32 (freqTable s).length := by simp only [tableMade]
  have hlen : (freqTable s).length ≤ 256 := freqTable_length s
  rw [h, BitVec.toNat_ofNat]; omega

/-- Settles O27: the table is the sort of the histogram's pairs, and the histogram is left as it was. -/
theorem makeTableSortsTheHistogram : Obligations.MakeTableSortsTheHistogram := by
  intro s hs
  refine ⟨fun hv => if_pos (by simp [hv]), fun hv => ⟨tableMade s, execMakeTable_of_valid hv, ?_, ?_, ?_, rfl⟩⟩
  · exact tableOk_tableMade hs.cfg_wf (hs.histOk hv)
  · rw [tableMade_result, tableMade_nsyms]
  · exact (execMakeTable_of_valid (s := tableMade s) hv).trans (congrArg _ (tableMade_tableMade s))

end Sys2Proof.Machine
end

/-! PROOFS. BUILD_TREE merges the two smallest keys (43_tree.md R231, R232), and its tree is a function of the frequency
table alone (R233). -/

section
namespace Sys2Proof.Machine

/-! ### BUILD_TREE's outcome (43_tree.md R230) -/

theorem execBuildTree_of_valid {s : State} (hv : s.tableValid = true) : exec .buildTree s = .next (treeBuilt s) :=
  if_neg (by simp [hv])

/-- BUILD_TREE reads nothing it writes. -/
theorem treeBuilt_treeBuilt (s : State) : treeBuilt (treeBuilt s) = treeBuilt s := rfl

theorem treeBuilt_frame (s : State) :
    treeBuilt s = { s with nodeW := (treeBuilt s).nodeW, nodeInfo := (treeBuilt s).nodeInfo
                           nnodes := (treeBuilt s).nnodes, root := (treeBuilt s).root
                           treeValid := true, codesValid := false } := by
  simp only [treeBuilt]

/-! ### The comparator and `argmin` (43_tree.md R232) -/

theorem keyLt_iff {a b : Key} : keyLt a b = true ↔ a.1 < b.1 ∨ (a.1 = b.1 ∧ a.2 < b.2) := by
  simp [keyLt]

theorem keyLt_of_not_keyLt {a b : Key} (hne : a.2 ≠ b.2) (h : ¬ keyLt b a = true) : keyLt a b = true := by
  rw [keyLt_iff] at h ⊢; omega

/-- Nothing is below the smallest key. -/
theorem not_keyLt_minKey {k e : Key} {q : List Key} (he : e ∈ k :: q) : ¬ keyLt e (minKey k q) = true := by
  induction q generalizing k e with
  | nil => obtain rfl := List.mem_singleton.mp he; simp [minKey, keyLt_iff]
  | cons f q ih =>
    rw [minKey]
    split
    case isTrue hfk =>
      obtain rfl | he := List.mem_cons.mp he
      · have hmin := ih (k := f) List.mem_cons_self
        rw [keyLt_iff] at hfk hmin ⊢; omega
      · exact ih he
    case isFalse hfk =>
      obtain rfl | he := List.mem_cons.mp he
      · exact ih List.mem_cons_self
      obtain rfl | he := List.mem_cons.mp he
      · have hmin := ih (k := k) List.mem_cons_self
        rw [keyLt_iff] at hfk hmin ⊢; omega
      · exact ih (List.mem_cons_of_mem _ he)

/-- Among candidates of different indices, `argmin` takes the one below all others. -/
theorem keyLt_of_takeMin {q q' : List Key} {a e : Key} (hd : (q.map Prod.snd).Nodup) (h : takeMin q = some (a, q'))
    (he : e ∈ q') : keyLt a e = true := by
  have hperm := takeMin_perm h
  have hd' := (hperm.map Prod.snd).nodup_iff.mp hd
  rw [List.map_cons, List.nodup_cons] at hd'
  have hne : a.2 ≠ e.2 := fun heq => hd'.1 (heq ▸ List.mem_map_of_mem he)
  refine keyLt_of_not_keyLt hne ?_
  have hmem : e ∈ q := hperm.mem_iff.mpr (List.mem_cons_of_mem _ he)
  cases q with
  | nil => cases h
  | cons k q =>
    simp only [takeMin, Option.some.injEq, Prod.mk.injEq] at h
    rw [← h.1]
    exact not_keyLt_minKey hmem

/-! ### What each merge takes (43_tree.md R231) -/

/-- Node x is what one pass of the loop adds to these nodes: its children are candidates a and b, and the others are
in `rest`. -/
structure GreedyPass (n total : Nat) (nodes : List TreeNode) (a b : Key) (rest : List Key) (x : TreeNode) : Prop where
  inv : MergeInv n total nodes (a :: b :: rest)
  node : x = mergedNode a b
  first : keyLt a b = true
  second : ∀ e ∈ rest, keyLt b e = true

theorem MergeInv.greedyPass {n total : Nat} {nodes : List TreeNode} {q q1 q2 : List Key} {a b : Key}
    (h : MergeInv n total nodes q) (h1 : takeMin q = some (a, q1)) (h2 : takeMin q1 = some (b, q2)) :
    GreedyPass n total nodes a b q2 (mergedNode a b) := by
  have hperm1 := takeMin_perm h1
  have hperm2 := takeMin_perm h2
  have hd1 : (q1.map Prod.snd).Nodup := ((hperm1.map Prod.snd).nodup_iff.mp h.distinct).of_cons
  exact ⟨h.perm (hperm1.trans (hperm2.cons a)), rfl,
    keyLt_of_takeMin h.distinct h1 (hperm2.mem_iff.mpr List.mem_cons_self), fun e => keyLt_of_takeMin hd1 h2⟩

/-- Every node after the n leaves is what one pass added to the nodes before it. -/
def AllGreedy (n total : Nat) (nodes : List TreeNode) : Prop :=
  ∀ j x, n ≤ j → nodes[j]? = some x → ∃ a b rest, GreedyPass n total (nodes.take j) a b rest x

theorem AllGreedy.concat {n total : Nat} {nodes : List TreeNode} {a b : Key} {rest : List Key} {y : TreeNode}
    (h : AllGreedy n total nodes) (hy : GreedyPass n total nodes a b rest y) : AllGreedy n total (nodes ++ [y]) := by
  intro j x hj hx
  obtain hx | ⟨rfl, rfl⟩ := getElem?_concat_iff.mp hx
  · rw [List.take_append_of_le_length (List.getElem?_eq_some_iff.mp hx).1.le]
    exact h j x hj hx
  · rw [List.take_left]
    exact ⟨a, b, rest, hy⟩

theorem allGreedy_builtNodes {s : State} (h : TableOk s) (hn : 1 ≤ s.nsyms.toNat) :
    AllGreedy s.nsyms.toNat s.total.toNat (builtNodes s) := by
  have hleaves : AllGreedy s.nsyms.toNat s.total.toNat (leafNodes s) := fun j x hj hx =>
    absurd (leafNodes_getElem?.mp hx).1 (by omega)
  rw [builtNodes_eq]
  obtain ⟨-, -, -, hall⟩ := mergeLoop_keeps
    (P := fun nodes q => MergeInv s.nsyms.toNat s.total.toNat nodes q ∧ AllGreedy s.nsyms.toNat s.total.toNat nodes)
    (fun _ _ _ _ _ _ ⟨hinv, hall⟩ h1 h2 => ⟨hinv.pass h1 h2, hall.concat (hinv.greedyPass h1 h2)⟩)
    s.nsyms.toNat (q := leafKeys s) (by simp [leafKeys]) ⟨mergeInv_leaves h hn, hleaves⟩
  exact hall

/-- A node without a parent that the pass does not take is one of the other candidates. -/
theorem GreedyPass.mem_rest {n total : Nat} {nodes : List TreeNode} {a b : Key} {rest : List Key} {x : TreeNode}
    (h : GreedyPass n total nodes a b rest x) {k : Nat} (hk : k < nodes.length) (hfree : ∀ j, ¬ ParentOf n nodes k j)
    (ha : k ≠ a.2) (hb : k ≠ b.2) : ∃ e ∈ rest, e.2 = k := by
  by_contra hrest
  obtain ⟨j, hp, -⟩ := h.inv.used k hk fun hm => by
    simp only [List.map_cons, List.mem_cons, List.mem_map] at hm
    obtain hm | hm | hm := hm
    · exact ha hm
    · exact hb hm
    · exact hrest hm
  exact hfree j hp

/-! ### The stored tree's merges -/

theorem parentOf_take_iff {n : Nat} {nodes : List TreeNode} {j k j' : Nat} :
    ParentOf n (nodes.take j) k j' ↔ j' < j ∧ ParentOf n nodes k j' := by
  rw [ParentOf, ParentOf, List.getElem?_take]
  by_cases hj : j' < j <;> simp [hj]

theorem keyBelow_of_keyLt {s : State} {a b : Key} (ha : nodeWeight s a.2 = a.1) (hb : nodeWeight s b.2 = b.1)
    (h : keyLt a b = true) : keyBelow s a.2 b.2 := by
  rw [keyBelow, ha, hb]
  exact keyLt_iff.mp h

section Stored

variable {s : State} (hwf : s.cfg.wf = true) (hmax : s.total.toNat ≤ s.cfg.cmax) (h : TableOk s)
include hwf hmax h

/-- A child taken before the merge at j is one with a parent among the nodes before j. -/
theorem usedBefore_treeBuilt_iff {j k : Nat} (hj : j < 2 * s.nsyms.toNat - 1) :
    usedBefore (treeBuilt s) j k ↔ ∃ j', ParentOf s.nsyms.toNat ((builtNodes s).take j) k j' := by
  simp only [usedBefore, parentOf_take_iff, parentOf_builtNodes_iff hwf hmax h, treeBuilt_nsyms]
  exact exists_congr fun j' => and_congr_right fun hlt => (and_iff_right (hlt.trans hj)).symm

/-- A candidate's key holds the weight its node is stored with. -/
theorem nodeWeight_of_candidate {n total j : Nat} {q : List Key} (hinv : MergeInv n total ((builtNodes s).take j) q)
    {e : Key} (he : e ∈ q) : nodeWeight (treeBuilt s) e.2 = e.1 := by
  obtain ⟨x, hx, hw⟩ := hinv.keys e he
  rw [List.getElem?_take, Option.ite_none_right_eq_some] at hx
  rw [(treeBuilt_at hwf hmax h hx.2).2, hw]

/-- Each merge of the stored tree takes the two smallest keys left (43_tree.md R231, R232). -/
theorem greedyMerges_treeBuilt : GreedyMerges (treeBuilt s) := by
  intro j hj hnj
  rw [treeBuilt_nsyms] at hj hnj
  obtain ⟨x, hx, -, hl, hr⟩ := treeBuilt_inner hwf hmax h hj hnj
  obtain ⟨a, b, rest, hpass⟩ := allGreedy_builtNodes h (by omega) j x hnj hx
  obtain ⟨hinv, rfl, hfirst, hsecond⟩ := id hpass
  have hw := @nodeWeight_of_candidate s hwf hmax h _ _ _ _ hinv
  have hunused : ∀ {e}, e ∈ a :: b :: rest → ¬ usedBefore (treeBuilt s) j e.2 := fun he hu => by
    obtain ⟨j', hp⟩ := (usedBefore_treeBuilt_iff hwf hmax h hj).mp hu
    exact hinv.unused _ (List.mem_map_of_mem he) j' hp
  rw [hl, hr]
  refine ⟨hunused (by simp), hunused (by simp), ?_, fun k hk hfree hka hkb => ?_⟩
  · exact keyBelow_of_keyLt (hw (by simp)) (hw (by simp)) hfirst
  · have hlen : k < ((builtNodes s).take j).length := by
      rw [List.length_take, builtNodes_length h]; omega
    obtain ⟨e, he, rfl⟩ := hpass.mem_rest hlen
      (fun j' hp => hfree ((usedBefore_treeBuilt_iff hwf hmax h hj).mpr ⟨j', hp⟩)) hka hkb
    exact keyBelow_of_keyLt (hw (by simp)) (hw (by simp [he])) (hsecond e he)

end Stored

/-- Settles O28: what every pass of the loop takes, read back from the stored nodes. -/
theorem buildTreeMergesTheSmallest : Obligations.BuildTreeMergesTheSmallest := by
  intro s hs
  refine ⟨fun hv => if_pos (by simp [hv]), fun hv =>
    ⟨treeBuilt s, execBuildTree_of_valid hv, ?_, ?_, ?_, treeBuilt_frame s⟩⟩
  · exact (treeInv_treeBuilt hs hv).2 rfl
  · obtain ⟨hwf, hth, -, -, hhist, htable⟩ := hs
    exact greedyMerges_treeBuilt hwf (hhist (hth hv)).total_le (htable hv)
  · rw [execBuildTree_of_valid (s := treeBuilt s) hv, treeBuilt_treeBuilt]

/-! ### The tree as a function of the table (43_tree.md R233) -/

section SameTable

variable {s s' : State} (hn : s.nsyms = s'.nsyms)
  (htable : ∀ i, i < s.nsyms.toNat → ftSymAt s i = ftSymAt s' i ∧ ftCntAt s i = ftCntAt s' i)
include hn htable

theorem builtNodes_eq_of_table : builtNodes s = builtNodes s' := by
  have hleaves : leafNodes s = leafNodes s' := by
    rw [leafNodes, leafNodes, ← hn]
    refine List.map_congr_left fun i hi => ?_
    obtain ⟨hsym, hcnt⟩ := htable i (List.mem_range.mp hi)
    exact congrArg₂ (fun w c => TreeNode.mk w true c nodeNone nodeNone) hcnt hsym
  have hkeys : leafKeys s = leafKeys s' := by
    rw [leafKeys, leafKeys, ← hn]
    exact List.map_congr_left fun i hi => congrArg (·, i) (htable i (List.mem_range.mp hi)).2
  rw [builtNodes_eq, builtNodes_eq, hleaves, hkeys, hn]

theorem builtWeight_eq_of_table (hw : s.cfg.cntW = s'.cfg.cntW) : builtWeight s = builtWeight s' := by
  funext j
  simp only [builtWeight, builtNodes_eq_of_table hn htable, storeCount, hw]

theorem builtInfo_eq_of_table : builtInfo s = builtInfo s' := by
  funext j
  simp only [builtInfo, builtNodes_eq_of_table hn htable]

end SameTable

/-- Settles O29: the loop starts from the same leaves and keys, and counts are stored in the same width. -/
theorem treeDependsOnTheTableAlone : Obligations.TreeDependsOnTheTableAlone := by
  intro s s' t t' hw hn htable hv hv' ht ht'
  have hnodes := builtNodes_eq_of_table hn htable
  obtain rfl := next_eq ((execBuildTree_of_valid hv).symm.trans ht)
  obtain rfl := next_eq ((execBuildTree_of_valid hv').symm.trans ht')
  refine ⟨?_, ?_, ?_, ?_⟩
  · rw [treeBuilt_nodeW, treeBuilt_nodeW, builtWeight_eq_of_table hn htable hw]
  · rw [treeBuilt_nodeInfo, treeBuilt_nodeInfo, builtInfo_eq_of_table hn htable]
  · simp only [treeBuilt, hnodes]
  · simp only [treeBuilt, hnodes, hn]

end Sys2Proof.Machine
end

/-! PROOFS. ASSIGN_CODES's outcome (44_codes.md R250), and the codes as the paths of a full binary tree: each symbol's
path is the only one to its leaf, no path goes on from a leaf, and they fill the code space (R254). -/

section
namespace Sys2Proof.Machine

/-! ### ASSIGN_CODES's outcome (44_codes.md R250) -/

theorem execAssignCodes_of_valid {s : State} {l : List Assignment} (hv : s.treeValid = true)
    (hl : treeAssignments s = some l) : exec .assignCodes s = .next (codesAssigned l s) := by
  refine (if_neg (by simp [hv])).trans ?_
  rw [hl]
  rfl

/-- ASSIGN_CODES reads nothing it writes. -/
theorem treeAssignments_codesAssigned (l : List Assignment) (s : State) :
    treeAssignments (codesAssigned l s) = treeAssignments s := rfl

theorem codesAssigned_codesAssigned (l : List Assignment) (s : State) :
    codesAssigned l (codesAssigned l s) = codesAssigned l s := rfl

theorem codesAssigned_frame (l : List Assignment) (s : State) :
    codesAssigned l s = { s with codeLen := (codesAssigned l s).codeLen, codeBits := (codesAssigned l s).codeBits
                                 codesValid := true } := by
  simp only [codesAssigned]

/-- Settles O30: the walk of a tree ends, its assignments are the paths, and ASSIGN_CODES reads nothing it writes. -/
theorem assignCodesGivesThePaths : Obligations.AssignCodesGivesThePaths := by
  intro s hs
  refine ⟨fun hv => if_pos (by simp [hv]), fun hv => ?_⟩
  obtain ⟨l, hl⟩ := exists_treeAssignments (hs.tableOk hv) (hs.treeOk hv)
  refine ⟨codesAssigned l s, execAssignCodes_of_valid hv hl, ?_, ?_, codesAssigned_frame l s⟩
  · exact codesOk_codesAssigned (hs.tableOk hv) (hs.treeOk hv) hl
  · rw [execAssignCodes_of_valid (s := codesAssigned l s) hv hl, codesAssigned_codesAssigned]

/-! ### What the codes give (10_state.md R53) -/

theorem length_codeSeq (s : State) (c : Byte) : (codeSeq s c).length = codeLength s c := by simp [codeSeq]

theorem codeLength_le (s : State) (c : Byte) : codeLength s c ≤ 255 :=
  Nat.le_of_lt_succ (byteCell s s.codeLen c.toNat c.toNat).isLt

theorem CodesInv.treeValid {s : State} (h : CodesInv s) (hv : s.codesValid = true) : s.treeValid = true := by
  obtain ⟨⟨⟨-, -, -, hct, -, -⟩, -⟩, -⟩ := h
  exact hct hv

theorem CodesInv.tableOk {s : State} (h : CodesInv s) (hv : s.codesValid = true) : TableOk s :=
  h.1.tableOk (h.treeValid hv)

theorem CodesInv.treeOk {s : State} (h : CodesInv s) (hv : s.codesValid = true) : TreeOk s :=
  h.1.treeOk (h.treeValid hv)

theorem CodesInv.codesOk {s : State} (h : CodesInv s) (hv : s.codesValid = true) : CodesOk s := h.2 hv

section Codes

variable {s : State}

/-- Only a symbol of the table has a code. -/
theorem CodesOk.exists_ftSymAt (h : CodesOk s) {c : Byte} (hc : 1 ≤ codeLength s c) :
    ∃ i, i < s.nsyms.toNat ∧ ftSymAt s i = c := by
  obtain ⟨-, -, -, -, habsent, -⟩ := h
  by_contra hnone
  have := habsent c fun i hi he => hnone ⟨i, hi, he⟩
  omega

theorem CodesOk.codeSeq_of_single (h : CodesOk s) (h1 : s.nsyms.toNat = 1) {i : Nat} (hi : i < s.nsyms.toNat) :
    codeSeq s (ftSymAt s i) = [false] := by
  obtain ⟨-, -, hone, -⟩ := h
  exact hone i hi h1

theorem CodesOk.follow_codeSeq (h : CodesOk s) (h2 : 2 ≤ s.nsyms.toNat) {i : Nat} (hi : i < s.nsyms.toNat) :
    follow (nodeInfoAt s) s.root.toNat (codeSeq s (ftSymAt s i)) = some i := by
  obtain ⟨-, -, -, htwo, -⟩ := h
  exact htwo i hi h2

end Codes

/-- Settles O31: the shorter path ends at a leaf, from which no path goes on. -/
theorem codesArePrefixFree : Obligations.CodesArePrefixFree := by
  intro s a b hs hv hne ha hb ⟨q, hq⟩
  have hc := hs.codesOk hv
  obtain ⟨i, hi, rfl⟩ := hc.exists_ftSymAt ha
  obtain ⟨j, hj, rfl⟩ := hc.exists_ftSymAt hb
  have hij : i ≠ j := fun he => hne (congrArg (ftSymAt s) he)
  have h2 : 2 ≤ s.nsyms.toNat := by omega
  have hrest : follow (nodeInfoAt s) i q = some j := by
    rw [← follow_append (hc.follow_codeSeq h2 hi) q, hq]
    exact hc.follow_codeSeq h2 hj
  exact hij ((follow_of_leaf ((hs.treeOk hv).leaf hi).1).mp hrest).2.symm

/-! ### The only path to a node (43_tree.md R233) -/

/-- The last step of a path goes from an internal node to its child. -/
theorem follow_concat {info : Nat → Word} {j k : Nat} {p : List Bool} {b : Bool}
    (h : follow info j (p ++ [b]) = some k) :
    ∃ i, follow info j p = some i ∧ infoLeaf (info i) = false ∧ infoChild (info i) b = k := by
  induction p generalizing j with
  | nil =>
    rw [List.nil_append, follow] at h
    split at h
    · cases h
    · next hleaf => exact ⟨j, rfl, by simpa using hleaf, Option.some.inj h⟩
  | cons c p ih =>
    rw [List.cons_append, follow] at h
    split at h
    · cases h
    · next hleaf =>
      obtain ⟨i, hi, hik⟩ := ih h
      exact ⟨i, (follow_cons_of_inner (by simpa using hleaf) c p).trans hi, hik⟩

section Tree

variable {s : State}

theorem leftOf_or_rightOf {j k : Nat} {b : Bool} (h : infoChild (nodeInfoAt s j) b = k) :
    leftOf s j = k ∨ rightOf s j = k := by
  cases b
  · exact .inl h
  · exact .inr h

theorem TreeOk.le_of_inner (h : TreeOk s) {j : Nat} (hj : j < 2 * s.nsyms.toNat - 1)
    (hleaf : infoLeaf (nodeInfoAt s j) = false) : s.nsyms.toNat ≤ j :=
  Nat.le_of_not_lt fun hlt => by rw [(h.infoLeaf_iff hj).mpr hlt] at hleaf; cases hleaf

/-- A node is the child of one node, on one side. -/
theorem TreeOk.infoChild_inj (h : TreeOk s) {j j' : Nat} {b b' : Bool} (hj : j < 2 * s.nsyms.toNat - 1)
    (hj' : j' < 2 * s.nsyms.toNat - 1) (hleaf : infoLeaf (nodeInfoAt s j) = false)
    (hleaf' : infoLeaf (nodeInfoAt s j') = false)
    (he : infoChild (nodeInfoAt s j) b = infoChild (nodeInfoAt s j') b') : j = j' ∧ b = b' := by
  have hnj := h.le_of_inner hj hleaf
  have hnj' := h.le_of_inner hj' hleaf'
  have hlt := h.child_lt hj hleaf b
  obtain ⟨-, -, -, -, hinner, hparent, -⟩ := h
  obtain ⟨m, -, -, -, hm⟩ := hparent (infoChild (nodeInfoAt s j) b) (by omega)
  obtain rfl : j = j' :=
    (hm j hj hnj (leftOf_or_rightOf rfl)).trans (hm j' hj' hnj' (leftOf_or_rightOf he.symm)).symm
  obtain ⟨-, -, -, hsides, -⟩ := hinner j hj hnj
  refine ⟨rfl, ?_⟩
  cases b <;> cases b'
  · rfl
  · exact absurd he hsides
  · exact absurd he.symm hsides
  · rfl

/-- No path leads back to the root, which is above every child. -/
theorem TreeOk.follow_concat_ne_root (h : TreeOk s) (hn : 1 ≤ s.nsyms.toNat) (p : List Bool) (b : Bool) :
    follow (nodeInfoAt s) s.root.toNat (p ++ [b]) ≠ some s.root.toNat := fun hp => by
  have hroot := h.root_eq hn
  obtain ⟨i, hi, hleaf, hchild⟩ := follow_concat hp
  have hi := (h.follow_bounds (by omega) hi).1
  have hlt := h.child_lt hi hleaf b
  omega

/-- Each node has one path from the root: the last steps agree, and then the paths before them. -/
theorem TreeOk.follow_root_inj (h : TreeOk s) (hn : 1 ≤ s.nsyms.toNat) {p q : List Bool} {k : Nat}
    (hp : follow (nodeInfoAt s) s.root.toNat p = some k) (hq : follow (nodeInfoAt s) s.root.toNat q = some k) :
    p = q := by
  have hroot := h.root_eq hn
  induction p using List.reverseRecOn generalizing q k with
  | nil =>
    obtain rfl : s.root.toNat = k := Option.some.inj hp
    obtain rfl | ⟨q, b, rfl⟩ := List.eq_nil_or_concat' q
    · rfl
    · exact absurd hq (h.follow_concat_ne_root hn q b)
  | append_singleton p a ih =>
    obtain rfl | ⟨q, b, rfl⟩ := List.eq_nil_or_concat' q
    · obtain rfl : s.root.toNat = k := Option.some.inj hq
      exact absurd hp (h.follow_concat_ne_root hn p a)
    · obtain ⟨i, hi, hleaf, rfl⟩ := follow_concat hp
      obtain ⟨j, hj, hleaf', he⟩ := follow_concat hq
      have hi' := (h.follow_bounds (by omega) hi).1
      have hj' := (h.follow_bounds (by omega) hj).1
      obtain ⟨rfl, rfl⟩ := h.infoChild_inj hi' hj' hleaf hleaf' he.symm
      rw [ih hi hj]

end Tree

/-! ### The walk lists each leaf once, and its paths fill the code space (44_codes.md R254) -/

theorem walk_of_leaf {info : Nat → Word} {j : Nat} (hleaf : infoLeaf (info j) = true) {depth : Nat} {p : List Bool}
    {l : List Assignment} (h : walk info (depth + 1) j p = some l) : l = [(infoSym (info j), p)] := by
  rw [walk, if_pos hleaf] at h
  exact (Option.some.inj h).symm

theorem walk_of_inner {info : Nat → Word} {j : Nat} (hleaf : infoLeaf (info j) = false) {depth : Nat} {p : List Bool}
    {l : List Assignment} (h : walk info (depth + 1) j p = some l) :
    ∃ l0 l1, walk info depth (infoLeft (info j)) (p ++ [false]) = some l0
      ∧ walk info depth (infoRight (info j)) (p ++ [true]) = some l1 ∧ l = l0 ++ l1 := by
  rw [walk, if_neg (by simp [hleaf])] at h
  split at h
  case h_1 l0 l1 h0 h1 => exact ⟨l0, l1, h0, h1, (Option.some.inj h).symm⟩
  case h_2 => cases h

/-- The paths below the left child and below the right child differ in their first bit. -/
theorem nodup_walk {info : Nat → Word} {depth j : Nat} {p : List Bool} {l : List Assignment}
    (h : walk info depth j p = some l) : l.Nodup := by
  induction depth generalizing j p l with
  | zero => cases h
  | succ depth ih =>
    cases hleaf : infoLeaf (info j) with
    | true => rw [walk_of_leaf hleaf h]; exact List.nodup_singleton _
    | false =>
      obtain ⟨l0, l1, h0, h1, rfl⟩ := walk_of_inner hleaf h
      refine List.nodup_append.mpr ⟨ih h0, ih h1, fun e he0 f he1 hef => ?_⟩
      obtain ⟨r0, i0, -, -, rfl⟩ := (mem_walk_iff h0 e).mp he0
      obtain ⟨r1, i1, -, -, rfl⟩ := (mem_walk_iff h1 f).mp he1
      simp at hef

/-- A full tree's paths fill the code space: the halves below a node's two children make up the node's part. -/
theorem sum_walk {info : Nat → Word} {N depth j : Nat} {p : List Bool} {l : List Assignment}
    (h : walk info depth j p = some l) (hN : ∀ e ∈ l, e.2.length ≤ N) :
    p.length ≤ N ∧ (l.map fun e => 2 ^ (N - e.2.length)).sum = 2 ^ (N - p.length) := by
  induction depth generalizing j p l with
  | zero => cases h
  | succ depth ih =>
    cases hleaf : infoLeaf (info j) with
    | true =>
      obtain rfl := walk_of_leaf hleaf h
      exact ⟨hN _ (List.mem_singleton_self _), by simp⟩
    | false =>
      obtain ⟨l0, l1, h0, h1, rfl⟩ := walk_of_inner hleaf h
      obtain ⟨hle, hsum0⟩ := ih h0 fun e he => hN e (List.mem_append_left _ he)
      obtain ⟨-, hsum1⟩ := ih h1 fun e he => hN e (List.mem_append_right _ he)
      rw [List.length_append, List.length_singleton] at hle hsum0 hsum1
      refine ⟨by omega, ?_⟩
      rw [List.map_append, List.sum_append, hsum0, hsum1, ← Nat.mul_two, ← Nat.pow_succ]
      congr 1; omega

/-! ### The codes fill the code space -/

/-- The table's symbols with their codes, in the table's order. -/
def tableCodes (s : State) : List Assignment :=
  (List.range s.nsyms.toNat).map fun i => (ftSymAt s i, codeSeq s (ftSymAt s i))

/-- Codes that lead to different leaves differ. -/
theorem nodup_tableCodes {s : State} (hc : CodesOk s) (h2 : 2 ≤ s.nsyms.toNat) : (tableCodes s).Nodup := by
  refine List.nodup_range.map_on fun i hi j hj he => ?_
  have hfi := hc.follow_codeSeq h2 (List.mem_range.mp hi)
  rw [(Prod.mk.inj he).2, hc.follow_codeSeq h2 (List.mem_range.mp hj)] at hfi
  exact (Option.some.inj hfi).symm

section Codes

variable {s : State} (h : TreeOk s) (hc : CodesOk s)
include h hc

/-- The walk's assignments are the table's symbols with their codes. -/
theorem walk_perm_tableCodes (h2 : 2 ≤ s.nsyms.toNat) {depth : Nat} {l : List Assignment}
    (hl : walk (nodeInfoAt s) depth s.root.toNat [] = some l) : l.Perm (tableCodes s) := by
  have hroot := h.root_eq (by omega)
  refine (List.perm_ext_iff_of_nodup (nodup_walk hl) (nodup_tableCodes hc h2)).mpr fun e => ?_
  rw [mem_walk_iff hl, tableCodes, List.mem_map]
  constructor
  · rintro ⟨p, i, hf, hleaf, rfl⟩
    have hi := (h.infoLeaf_iff (h.follow_bounds (by omega) hf).1).mp hleaf
    refine ⟨i, List.mem_range.mpr hi, ?_⟩
    rw [(h.leaf hi).2, List.nil_append, h.follow_root_inj (by omega) hf (hc.follow_codeSeq h2 hi)]
  · rintro ⟨i, hi, rfl⟩
    have hi := List.mem_range.mp hi
    obtain ⟨hleaf, hsym⟩ := h.leaf hi
    exact ⟨_, i, hc.follow_codeSeq h2 hi, hleaf, by rw [hsym, List.nil_append]⟩

/-- Two or more codes fill the code space. -/
theorem sum_codes_of_two_le (ht : TableOk s) (h2 : 2 ≤ s.nsyms.toNat) :
    ((List.range s.nsyms.toNat).map fun i => 2 ^ (255 - codeLength s (ftSymAt s i))).sum = 2 ^ 255 := by
  have hroot := h.root_eq (by omega)
  have hlt : s.root.toNat < 2 * s.nsyms.toNat - 1 := by omega
  obtain ⟨l, hl⟩ := h.exists_walk hlt (ht.lt_maxNodes hlt) []
  have hperm := walk_perm_tableCodes h hc h2 hl
  have hlen : ∀ e ∈ l, e.2.length ≤ 255 := fun e he => by
    obtain ⟨i, -, rfl⟩ := List.mem_map.mp (hperm.mem_iff.mp he)
    exact (length_codeSeq s _).trans_le (codeLength_le s _)
  have hsum := (sum_walk hl hlen).2
  rw [(hperm.map _).sum_eq, tableCodes, List.map_map] at hsum
  simpa only [Function.comp_def, length_codeSeq, List.length_nil, Nat.sub_zero] using hsum

/-- A code is never empty: a single symbol's is "0", and otherwise it leads from the root, which is no leaf, to one. -/
theorem one_le_codeLength_ftSymAt {i : Nat} (hi : i < s.nsyms.toNat) : 1 ≤ codeLength s (ftSymAt s i) := by
  rw [← length_codeSeq, Nat.one_le_iff_ne_zero, Ne, List.length_eq_zero_iff]
  intro hnil
  by_cases h1 : s.nsyms.toNat = 1
  · rw [hc.codeSeq_of_single h1 hi] at hnil
    cases hnil
  · have hroot := h.root_eq (by omega)
    have hf := hc.follow_codeSeq (by omega) hi
    rw [hnil] at hf
    have : s.root.toNat = i := Option.some.inj hf
    omega

end Codes

/-- Settles O32: two or more codes are the walk's paths, which fill the code space of a full tree; the code of a single
symbol has length 1 and fills half of it. -/
theorem codesFillTheCodeSpace : Obligations.CodesFillTheCodeSpace := by
  intro s hs hv
  have hc := hs.codesOk hv
  have h := hs.treeOk hv
  refine ⟨fun c => ⟨hc.exists_ftSymAt, ?_⟩, fun h1 => ?_, sum_codes_of_two_le h hc (hs.tableOk hv)⟩
  · rintro ⟨i, hi, rfl⟩
    exact one_le_codeLength_ftSymAt h hc hi
  · have hlen : codeLength s (ftSymAt s 0) = 1 := by
      rw [← length_codeSeq, hc.codeSeq_of_single h1 (by omega)]; rfl
    rw [h1, List.range_one, List.map_singleton, List.sum_singleton, hlen]

end Sys2Proof.Machine
end

/-! PROOFS. The payload (45_payload.md): WRITE_CODE appends the symbol's code, DECODE_SYM's descent is a path that
follows the input bits, and symbols encoded, closed and copied back decode to themselves. -/

section
namespace Sys2Proof.Machine

/-! ### WRITE_CODE (45_payload.md R270) -/

/-- Past its first three checks, WRITE_CODE is WriteSeq of the symbol's code. -/
theorem exec_writeCode_of_ready {c : Byte} {s : State} (ho : s.wrClosed = false) (hv : s.codesValid = true)
    (hl : codeLength s c ≠ 0) :
    exec (.writeCode c) s = writeSeq (encode (.writeCode c)) (codeSeq s c) s := by
  simp [exec, execWriteCode, ho, hv, hl]

/-- Settles O17: past its own checks WRITE_CODE is WriteSeq of the code, and each PutBit appends its bit. -/
theorem writeCodeAppendsTheCode : Obligations.WriteCodeAppendsTheCode := by
  intro c bits s hwf hlen hbits
  obtain rfl : codeSeq s c = bits := by
    refine List.ext_getElem (by rw [length_codeSeq, hlen]) fun k _ hk => ?_
    have := hbits k (hlen ▸ hk)
    simpa [codeSeq, codeBit, List.getElem?_eq_getElem hk] using this.symm
  obtain ⟨-, hfull, hfits⟩ := writeSeq_appends (encode (.writeCode c)) (codeSeq s c) hwf
  rw [hlen] at hfull hfits
  refine ⟨fun hc => if_pos hc, fun ho hv => ?_, fun ho hv hl => ?_, fun ho hv hl => ?_, fun ho hv hl => ?_⟩
  · simp [exec, execWriteCode, ho, hv, fail_eq]
  · simp [exec, execWriteCode, ho, hv, hl, fail_eq]
  · rw [exec_writeCode_of_ready ho hv hl]; exact hfull ho
  · rw [exec_writeCode_of_ready ho hv hl]; exact hfits ho

/-! ### The descent as a path (45_payload.md R271) -/

theorem descend_of_leaf {s : State} {j : Nat} (h : infoLeaf (nodeInfoAt s j) = true) (left p : Nat) :
    descend s left j p = some (j, p) := by
  cases left <;> exact if_pos h

theorem descend_succ_of_inner {s : State} {j : Nat} (h : infoLeaf (nodeInfoAt s j) = false) (left p : Nat) :
    descend s (left + 1) j p
      = descend s left (infoChild (nodeInfoAt s j) (inBit s p (p - s.rdPos.toNat))) (p + 1) := by
  rw [descend, if_neg (by simp [h])]

/-- The n bits a descent at position p reads next. -/
def descentBits (s : State) (p n : Nat) : List Bool :=
  (List.range n).map fun k => inBit s (p + k) (p + k - s.rdPos.toNat)

theorem descentBits_succ (s : State) (p n : Nat) :
    descentBits s p (n + 1) = inBit s p (p - s.rdPos.toNat) :: descentBits s (p + 1) n := by
  rw [descentBits, List.range_succ_eq_map, List.map_cons, List.map_map]
  refine congrArg _ (List.map_congr_left fun k _ => ?_)
  rw [Function.comp_apply, show p + k.succ = p + 1 + k by omega]

/-- At RD_POS they are the next bits of the input stream. -/
theorem descentBits_rdPos (s : State) (n : Nat) : descentBits s s.rdPos.toNat n = inBits s n := by
  simp [descentBits, inBits]

/-- A descent goes down the path its bits name, to the leaf at its end. -/
theorem descend_of_follow {s : State} {left j i p n : Nat}
    (hf : follow (nodeInfoAt s) j (descentBits s p n) = some i) (hi : infoLeaf (nodeInfoAt s i) = true)
    (hn : n ≤ left) : descend s left j p = some (i, p + n) := by
  induction n generalizing left j p with
  | zero =>
    obtain rfl : j = i := Option.some.inj hf
    exact descend_of_leaf hi left p
  | succ n ih =>
    obtain ⟨left, rfl⟩ : ∃ m, left = m + 1 := ⟨left - 1, by omega⟩
    rw [descentBits_succ] at hf
    cases hleaf : infoLeaf (nodeInfoAt s j) with
    | true => exact absurd ((follow_of_leaf hleaf).mp hf).1 (by simp)
    | false =>
      rw [follow_cons_of_inner hleaf] at hf
      rw [descend_succ_of_inner hleaf, ih hf (by omega), Nat.add_assoc, Nat.add_comm 1]

/-- A descent that ends at a leaf went down the path of some of its bits. -/
theorem exists_follow_of_descend {s : State} {left j i p q : Nat} (hd : descend s left j p = some (i, q)) :
    ∃ n, n ≤ left ∧ follow (nodeInfoAt s) j (descentBits s p n) = some i ∧ infoLeaf (nodeInfoAt s i) = true := by
  induction left generalizing j p with
  | zero =>
    rw [descend] at hd
    split at hd
    · next hleaf =>
      obtain ⟨rfl, -⟩ := Prod.mk.inj (Option.some.inj hd)
      exact ⟨0, le_rfl, rfl, hleaf⟩
    · cases hd
  | succ left ih =>
    cases hleaf : infoLeaf (nodeInfoAt s j) with
    | true =>
      rw [descend_of_leaf hleaf] at hd
      obtain ⟨rfl, -⟩ := Prod.mk.inj (Option.some.inj hd)
      exact ⟨0, Nat.zero_le _, rfl, hleaf⟩
    | false =>
      rw [descend_succ_of_inner hleaf] at hd
      obtain ⟨n, hn, hf, hi⟩ := ih hd
      exact ⟨n + 1, by omega, by rw [descentBits_succ, follow_cons_of_inner hleaf, hf], hi⟩

/-! ### DECODE_SYM (45_payload.md R271) -/

section Decode

variable {s : State} (hv : s.treeValid = true) (hn : s.nnodes ≠ 0)
include hv hn

/-- The NOT_READY check passes. -/
theorem decodeSym_ready : ¬ (!s.treeValid || s.nnodes == 0) = true := by
  rw [hv, beq_false_of_ne hn]; decide

theorem exec_decodeSym_of_leaf (hleaf : infoLeaf (nodeInfoAt s s.root.toNat) = true) :
    exec .decodeSym s =
      if s.rdPos.toNat + 1 > avail s then .next (raise .truncatedStream (encode .decodeSym) s)
      else if inBit s s.rdPos.toNat 0 then .next (raise .badCode (encode .decodeSym) s)
      else .next (decoded s s.root.toNat (s.rdPos.toNat + 1)) :=
  (if_neg (decodeSym_ready hv hn)).trans (if_pos hleaf)

theorem exec_decodeSym_of_descend_none (hleaf : infoLeaf (nodeInfoAt s s.root.toNat) = false)
    (hd : descend s (avail s - s.rdPos.toNat) s.root.toNat s.rdPos.toNat = none) :
    exec .decodeSym s = .next (raise .truncatedStream (encode .decodeSym) s) := by
  rw [exec, execDecodeSym, if_neg (decodeSym_ready hv hn), if_neg (by simp [hleaf]), hd, fail_eq]

theorem exec_decodeSym_of_reaches {j p : Nat} (h : DecodeReaches s j p) :
    exec .decodeSym s = .next (decoded s j p) := by
  obtain ⟨hleaf, hav, hbit, rfl, rfl⟩ | ⟨hleaf, hd⟩ := h
  · rw [exec_decodeSym_of_leaf hv hn hleaf, if_neg (by omega), if_neg (by simp [hbit])]
  · rw [exec, execDecodeSym, if_neg (decodeSym_ready hv hn), if_neg (by simp [hleaf]), hd]

/-- A DECODE_SYM that reaches leaf j at position p returns the leaf's symbol and moves to p, which fits RD_POS. -/
theorem exists_decoded_of_reaches {j p : Nat} (h : DecodeReaches s j p) :
    ∃ t, exec .decodeSym s = .next t ∧ t.rdPos.toNat = p
      ∧ t.result = (infoSym (nodeInfoAt s j)).setWidth 32 ∧ t = { s with result := t.result, rdPos := t.rdPos } := by
  refine ⟨decoded s j p, exec_decodeSym_of_reaches hv hn h, ?_, rfl, rfl⟩
  have hp := decodeReaches_le_avail h
  have hbound := s.inLen.isLt
  unfold avail at hp
  rw [decoded_rdPos, BitVec.toNat_ofNat]
  omega

end Decode

/-- Where the root is no leaf, input bits that lead from it to a leaf are what DECODE_SYM reads. -/
theorem decodeReaches_of_follow {s : State} {j : Nat} {p : List Bool}
    (hleaf : infoLeaf (nodeInfoAt s s.root.toNat) = false)
    (hf : follow (nodeInfoAt s) s.root.toNat p = some j) (hj : infoLeaf (nodeInfoAt s j) = true)
    (hav : s.rdPos.toNat + p.length ≤ avail s) (hp : inBits s p.length = p) :
    DecodeReaches s j (s.rdPos.toNat + p.length) := by
  refine .inr ⟨hleaf, descend_of_follow ?_ hj (by omega)⟩
  rw [descentBits_rdPos, hp, hf]

/-- Settles O33: a single leaf takes one bit, and from an internal root the descent and the paths of the input bits are
the same thing. -/
theorem decodeSymFollowsTheBits : Obligations.DecodeSymFollowsTheBits := by
  intro s hv hn
  refine ⟨fun hleaf => ⟨fun hav => ?_, fun hav hbit => ?_, fun hav hbit => ?_⟩,
    fun hleaf => ⟨fun p j hf hj hav hp => ?_, fun hnone => ?_⟩⟩
  · rw [exec_decodeSym_of_leaf hv hn hleaf, if_pos hav]
  · rw [exec_decodeSym_of_leaf hv hn hleaf, if_neg (by omega), if_pos hbit]
  · exact exists_decoded_of_reaches hv hn (.inl ⟨hleaf, hav, hbit, rfl, rfl⟩)
  · have hbits : inBits s p.length = p := by
      refine List.ext_getElem (length_inBits s _) fun k _ hk => ?_
      have := hp k hk
      simpa [inBits, List.getElem?_eq_getElem hk] using this.symm
    exact exists_decoded_of_reaches hv hn (decodeReaches_of_follow hleaf hf hj hav hbits)
  · refine exec_decodeSym_of_descend_none hv hn hleaf (Option.eq_none_iff_forall_ne_some.mpr fun e hd => ?_)
    obtain ⟨k, hk, hf, hj⟩ := exists_follow_of_descend (q := e.2) hd
    rw [descentBits_rdPos] at hf
    rw [hnone k _ hk hf] at hj
    cases hj

/-! ### The host's encode loop (45_payload.md R272) -/

theorem WriteFits.append {xs ys : List Bool} {s : State} (h : WriteFits (xs ++ ys) s) :
    WriteFits xs s ∧ WriteFits ys (putBits xs s) := by
  refine ⟨⟨h.1, ?_⟩, ?_⟩
  · obtain ⟨-, hfit⟩ := h
    rw [List.length_append] at hfit
    omega
  · induction xs generalizing s with
    | nil => exact h
    | cons b xs ih => exact ih h.cons.2

theorem exec_writeCode_of_fits {c : Byte} {s : State} (hv : s.codesValid = true) (hl : 1 ≤ codeLength s c)
    (hfit : WriteFits (codeSeq s c) s) : exec (.writeCode c) s = .next (putBits (codeSeq s c) s) := by
  obtain ⟨ho, hroom⟩ := hfit
  rw [exec_writeCode_of_ready ho hv (by omega), writeSeq, if_neg (by simp [ho]), if_neg (by omega)]

/-- The codes of a sequence of symbols, one after another. -/
def payload (s : State) (symbols : List Byte) : List Bool := symbols.flatMap (codeSeq s)

theorem length_payload (s : State) (symbols : List Byte) :
    (payload s symbols).length = (symbols.map (codeLength s)).sum := by
  simp [payload, List.length_flatMap, length_codeSeq]

/-- What leaves the validity chain alone leaves the codes. -/
theorem ChainKept.codeSeq_eq {s t : State} (h : ChainKept s t) : codeSeq t = codeSeq s := by rw [h]; rfl

theorem ChainKept.codeLength_eq {s t : State} (h : ChainKept s t) : codeLength t = codeLength s := by rw [h]; rfl

theorem ChainKept.codesValid_eq {s t : State} (h : ChainKept s t) : t.codesValid = s.codesValid := by rw [h]

theorem ChainKept.codesInv {s t : State} (h : ChainKept s t) (hs : CodesInv s) : CodesInv t := by rw [h]; exact hs

theorem ChainKept.payload_eq {s t : State} (h : ChainKept s t) : payload t = payload s := by
  unfold payload; rw [h.codeSeq_eq]

/-- WRITE_CODE of each symbol puts their codes one after another, and goes on. -/
theorem execAll_writeCodes {symbols : List Byte} (rest : List Instr) {s : State} (hv : s.codesValid = true)
    (hl : ∀ c ∈ symbols, 1 ≤ codeLength s c) (hfit : WriteFits (payload s symbols) s) :
    execAll (symbols.map Instr.writeCode ++ rest) s = execAll rest (putBits (payload s symbols) s) := by
  induction symbols generalizing s with
  | nil => rfl
  | cons c symbols ih =>
    obtain ⟨hc, hsymbols⟩ := List.forall_mem_cons.mp hl
    have hcons : payload s (c :: symbols) = codeSeq s c ++ payload s symbols := rfl
    rw [hcons] at hfit ⊢
    obtain ⟨hfit, hfit'⟩ := hfit.append
    have hk := chainKept_putBits (codeSeq s c) s
    rw [putBits_append, List.map_cons, List.cons_append, execAll, exec_writeCode_of_fits hv hc hfit, ← hk.payload_eq]
    exact ih (hk.codesValid_eq.trans hv) (hk.codeLength_eq ▸ hsymbols) (hk.payload_eq ▸ hfit')

/-- The state after WRITE_CODE of each symbol and CLOSE. -/
def encoded (s : State) (symbols : List Byte) : State :=
  { flushed (putBits (payload s symbols) s) with wrClosed := true }

theorem chainKept_encoded (s : State) (symbols : List Byte) : ChainKept s (encoded s symbols) := by
  unfold encoded; rw [flushed_frame, putBits_frame]; rfl

theorem encoded_err (s : State) (symbols : List Byte) : (encoded s symbols).err = s.err := by
  unfold encoded; rw [flushed_frame, putBits_frame]

theorem encoded_cfg (s : State) (symbols : List Byte) : (encoded s symbols).cfg = s.cfg := by
  rw [chainKept_encoded]

section Encode

variable {s : State} {symbols : List Byte} (hw : WriterInv s) (ho : s.wrClosed = false) (he : outLength s = 0)
  (hroom : ((payload s symbols).length + 7) / 8 ≤ s.cfg.obufSize)
include ho he hroom

theorem writeFits_payload : WriteFits (payload s symbols) s := by
  unfold outLength at he
  exact ⟨ho, by omega⟩

include hw

/-- The payload is the whole output stream. -/
theorem outStream_putBits_payload : outStream (putBits (payload s symbols) s) = payload s symbols := by
  have hnil : outStream s = [] := by rw [outStream, he]; rfl
  rw [(appends_putBits hw.1 (writeFits_payload ho he hroom)).1, hnil, List.nil_append]

theorem outLength_putBits_payload : outLength (putBits (payload s symbols) s) = (payload s symbols).length := by
  rw [← length_outStream, outStream_putBits_payload hw ho he hroom]

/-- There is room for CLOSE's partial byte. -/
theorem flushOverflows_putBits_payload : flushOverflows (putBits (payload s symbols) s) = false := by
  have hlen := outLength_putBits_payload hw ho he hroom
  have hcfg : (putBits (payload s symbols) s).cfg = s.cfg := by rw [putBits_frame]
  rw [flushOverflows_eq_false_iff, hcfg]
  unfold outLength at hlen
  refine or_iff_not_imp_left.mpr fun hn => ?_
  have hpos : (putBits (payload s symbols) s).wrNbits.toNat ≠ 0 := fun h0 => hn (BitVec.eq_of_toNat_eq h0)
  omega

theorem completes_close_encoded : Completes .close (putBits (payload s symbols) s) (encoded s symbols) :=
  .inr ⟨by rw [putBits_frame]; exact ho, flushOverflows_putBits_payload hw ho he hroom, rfl⟩

theorem writerInv_encoded : WriterInv (encoded s symbols) :=
  writerInv_of_completes (writerInv_putBits hw (writeFits_payload ho he hroom))
    (completes_close_encoded hw ho he hroom)

theorem execAll_encoded (hv : s.codesValid = true) (hl : ∀ c ∈ symbols, 1 ≤ codeLength s c) :
    execAll (symbols.map Instr.writeCode ++ [.close]) s = .next (encoded s symbols) := by
  have hclose : exec .close (putBits (payload s symbols) s) = .next (encoded s symbols) :=
    execClose_of_room (by rw [putBits_frame]; exact ho) (flushOverflows_putBits_payload hw ho he hroom)
  rw [execAll_writeCodes _ hv hl (writeFits_payload ho he hroom), execAll, hclose]
  rfl

/-- The payload is written out, with zero bits up to the next byte boundary. -/
theorem outStream_encoded : ∃ pad, pad < 8 ∧ outLength (encoded s symbols) = 8 * (encoded s symbols).outBytes.toNat
    ∧ outStream (encoded s symbols) = payload s symbols ++ List.replicate pad false := by
  have hinv := writerInv_putBits hw (writeFits_payload ho he hroom)
  have hover := flushOverflows_putBits_payload hw ho he hroom
  obtain ⟨hstream, -⟩ := appends_flushed hinv hover
  have h0 : (encoded s symbols).wrNbits = 0 := (writerInv_flushed hinv hover).2
  rw [outStream_putBits_payload hw ho he hroom] at hstream
  exact ⟨_, Nat.mod_lt _ (by omega), by rw [outLength, h0]; rfl, hstream⟩

theorem outBytes_encoded : (encoded s symbols).outBytes.toNat = ((payload s symbols).length + 7) / 8 := by
  obtain ⟨pad, hpad, hlen, hstream⟩ := outStream_encoded hw ho he hroom
  rw [← length_outStream, hstream, List.length_append, List.length_replicate] at hlen
  omega

end Encode

/-! ### The host's decode loop (45_payload.md R272, R273) -/

/-- The input stream goes on from RD_POS with these bits, each of them in a byte that holds a value. -/
def Upcoming (bits : List Bool) (s : State) : Prop :=
  s.rdPos.toNat + bits.length ≤ avail s
    ∧ ∀ k (hk : k < bits.length) (i : Nat), inBit s (s.rdPos.toNat + k) i = bits[k]

theorem Upcoming.inBits_eq {bits : List Bool} {s : State} (h : Upcoming bits s) : inBits s bits.length = bits :=
  List.ext_getElem (length_inBits s _) fun k _ hk => by simpa [inBits] using h.2 k hk k

theorem Upcoming.left {xs ys : List Bool} {s : State} (h : Upcoming (xs ++ ys) s) : Upcoming xs s := by
  obtain ⟨hav, hbits⟩ := h
  rw [List.length_append] at hav
  refine ⟨by omega, fun k hk i => ?_⟩
  rw [hbits k (by rw [List.length_append]; omega) i, List.getElem_append_left hk]

/-- Behind the first bits the stream goes on with the rest. -/
theorem Upcoming.right {xs ys : List Bool} {s t : State} (h : Upcoming (xs ++ ys) s)
    (ht : t = { s with result := t.result, rdPos := t.rdPos }) (hpos : t.rdPos.toNat = s.rdPos.toNat + xs.length) :
    Upcoming ys t := by
  obtain ⟨hav, hbits⟩ := h
  rw [List.length_append] at hav
  have havail : avail t = avail s := by rw [ht]; rfl
  have hbit : inBit t = inBit s := by rw [ht]; rfl
  refine ⟨by rw [havail, hpos]; omega, fun k hk i => ?_⟩
  have := hbits (xs.length + k) (by rw [List.length_append]; omega) i
  rw [List.getElem_append_right (by omega)] at this
  simpa [hbit, hpos, Nat.add_assoc] using this

/-- The copy back makes the output stream the input stream (41_bitstream.md R173). -/
theorem upcoming_copyBack {t : State} {bits pad : List Bool} (hw : WriterInv t)
    (hfits : t.outBytes.toNat ≤ t.cfg.ibufSize) (hlen : outLength t = 8 * t.outBytes.toNat)
    (hstream : outStream t = bits ++ pad) : Upcoming bits (copyBack t) := by
  obtain ⟨hav, hbit⟩ := readerSeesWhatTheWriterWrote t hw hfits
  have hle : bits.length ≤ 8 * t.outBytes.toNat := by
    rw [← hlen, ← length_outStream, hstream, List.length_append]; omega
  have hpos : (copyBack t).rdPos.toNat = 0 := rfl
  refine ⟨by omega, fun k hk i => ?_⟩
  have hget : (outStream t)[k]? = some bits[k] := by
    rw [hstream, List.getElem?_append_left hk, List.getElem?_eq_getElem hk]
  rw [hpos, Nat.zero_add, hbit k i (by omega)]
  rw [outStream, List.getElem?_map, List.getElem?_range (by omega)] at hget
  exact Option.some.inj hget

/-- A symbol's code in the input leads DECODE_SYM to the symbol's leaf. -/
theorem decodeReaches_of_upcoming {s : State} {c : Byte} (hs : CodesInv s) (hv : s.codesValid = true)
    (hl : 1 ≤ codeLength s c) (hup : Upcoming (codeSeq s c) s) :
    ∃ j, DecodeReaches s j (s.rdPos.toNat + (codeSeq s c).length) ∧ infoSym (nodeInfoAt s j) = c := by
  have hc := hs.codesOk hv
  have ht := hs.treeOk hv
  obtain ⟨i, hi, rfl⟩ := hc.exists_ftSymAt hl
  obtain ⟨hleaf, hsym⟩ := ht.leaf hi
  have hroot := ht.root_eq (by omega)
  refine ⟨i, ?_, hsym⟩
  by_cases h1 : s.nsyms.toNat = 1
  · obtain rfl : s.root.toNat = i := by omega
    rw [hc.codeSeq_of_single h1 hi] at hup ⊢
    obtain ⟨hav, hbit⟩ := hup
    exact .inl ⟨hleaf, hav, hbit 0 (by simp) 0, rfl, rfl⟩
  · have hinner := (ht.inner (j := s.root.toNat) (by omega) (by omega)).1
    exact decodeReaches_of_follow hinner (hc.follow_codeSeq (by omega) hi) hleaf hup.1 hup.inBits_eq

theorem CodesInv.nnodes_ne_zero {s : State} {c : Byte} (hs : CodesInv s) (hv : s.codesValid = true)
    (hl : 1 ≤ codeLength s c) : s.nnodes ≠ 0 := by
  obtain ⟨i, hi, -⟩ := (hs.codesOk hv).exists_ftSymAt hl
  obtain ⟨hnn, -⟩ := hs.treeOk hv
  intro h0
  rw [h0] at hnn
  have : (0 : BitVec 10).toNat = 0 := rfl
  omega

theorem decodeAll_of_upcoming {symbols : List Byte} {s : State} (hs : CodesInv s) (hv : s.codesValid = true)
    (herr : s.err = false) (hl : ∀ c ∈ symbols, 1 ≤ codeLength s c) (hup : Upcoming (payload s symbols) s) :
    decodeAll symbols.length s = some (symbols.map fun c => c.setWidth 32) := by
  induction symbols generalizing s with
  | nil => rfl
  | cons c symbols ih =>
    obtain ⟨hc, hsymbols⟩ := List.forall_mem_cons.mp hl
    have hup : Upcoming (codeSeq s c ++ payload s symbols) s := hup
    obtain ⟨j, hreach, hsym⟩ := decodeReaches_of_upcoming hs hv hc hup.left
    obtain ⟨t, hexec, hpos, hres, ht⟩ :=
      exists_decoded_of_reaches (hs.treeValid hv) (hs.nnodes_ne_zero hv hc) hreach
    have hk : ChainKept s t := by rw [ht]; rfl
    have herr' : t.err = false := by rw [ht]; exact herr
    have hrest := ih (hk.codesInv hs) (hk.codesValid_eq.trans hv) herr' (hk.codeLength_eq ▸ hsymbols)
      (hk.payload_eq ▸ hup.right ht hpos)
    simp [decodeAll, hexec, herr', hrest, hres, hsym]

/-- Settles O34: the writer leaves the codes one after another, the copy makes them the reader's next bits, and each
code leads from the root to its symbol's leaf. -/
theorem payloadRoundTrip : Obligations.PayloadRoundTrip := by
  intro s symbols hs hv hw ho he herr hl hobuf hibuf
  rw [← length_payload] at hobuf hibuf ⊢
  obtain ⟨pad, -, hlen, hstream⟩ := outStream_encoded hw ho he hobuf
  have hout := outBytes_encoded hw ho he hobuf
  refine ⟨encoded s symbols, execAll_encoded hw ho he hobuf hv hl, (encoded_err s symbols).trans herr, hout, ?_⟩
  have hup := upcoming_copyBack (writerInv_encoded hw ho he hobuf)
    (by rw [hout, encoded_cfg]; exact hibuf) hlen hstream
  have hk : ChainKept s (copyBack (encoded s symbols)) := by
    rw [copyBack, chainKept_encoded s symbols]; rfl
  exact decodeAll_of_upcoming (hk.codesInv hs) (hk.codesValid_eq.trans hv)
    ((encoded_err s symbols).trans herr) (hk.codeLength_eq ▸ hl) (hk.payload_eq ▸ hup)

end Sys2Proof.Machine
end

/-! PROOFS. The errors (60_exceptions.md): what raising one changes, what a run that ends with one is (R302), and the
validity flag each command needs (R300). -/

section
namespace Sys2Proof.Machine

/-! ### A failed command (60_exceptions.md R302) -/

/-- A command word that is run raises one error, named by the word itself, or keeps the error latch, DROP and PENDING. -/
theorem raises_or_latchKept_of_runCommand {c : Word} {s t : State} (h : runCommand c s = .next t) :
    Raises c s t ∨ LatchKept s t := by
  obtain hr | ⟨i, hd, hexec⟩ := runCommand_next h
  · exact .inl hr
  · rw [← encode_of_decode hd]
    exact commandCompletesOrRaises i s t hexec

/-- Settles O9: the five fields are those `raise` writes, and a run that ends with ERR = 1 from ERR = 0 did not keep
the latch, so it raised. -/
theorem failedCommandChangesOnlyTheLatch : Obligations.FailedCommandChangesOnlyTheLatch := by
  refine ⟨fun e c s => ⟨rfl, rfl, rfl, rfl, rfl, rfl⟩, fun c s t hs h ht => ?_⟩
  obtain hr | hkept := raises_or_latchKept_of_runCommand h
  · exact hr
  · obtain ⟨herr, -⟩ := hkept
    rw [hs, ht] at herr
    cases herr

/-! ### The validity flags (60_exceptions.md R300, R303) -/

/-- A check that a flag is 1 raises its error when the flag is 0. -/
theorem check_flag_of_false {b : Bool} {e : ErrCode} {c : Word} {s : State} {rest : Result} (hb : b = false) :
    (if !b then fail e c s else rest) = .next (raise e c s) := by
  rw [hb]; rfl

/-- WRITE_CODE on an open writer checks CODES_VALID next (60_exceptions.md R303). -/
theorem exec_writeCode_of_not_ready {c : Byte} {s : State} (ho : s.wrClosed = false) (hv : s.codesValid = false) :
    exec (.writeCode c) s = .next (raise .notReady (encode (.writeCode c)) s) :=
  (if_neg (by simp [ho])).trans (check_flag_of_false hv)

/-- DECODE_SYM needs a tree that is valid and not empty (45_payload.md R271). -/
theorem exec_decodeSym_of_not_ready {s : State} (h : s.treeValid = false ∨ s.nnodes = 0) :
    exec .decodeSym s = .next (raise .notReady (encode .decodeSym) s) :=
  if_pos (by simpa using h)

/-- Settles O11: the flag is the first check of each command but WRITE_CODE, where it follows the writer's. -/
theorem notReadyWithoutTheFlag : Obligations.NotReadyWithoutTheFlag := by
  rintro i s (⟨hist, hv⟩ | ⟨rfl, hv⟩ | ⟨rfl, hv⟩ | ⟨⟨c, rfl⟩, ho, hv⟩ | ⟨rfl, h⟩)
  · obtain ⟨c, rfl | rfl⟩ | rfl | rfl := hist <;> exact check_flag_of_false hv
  · exact check_flag_of_false hv
  · exact check_flag_of_false hv
  · exact exec_writeCode_of_not_ready ho hv
  · exact exec_decodeSym_of_not_ready h

end Sys2Proof.Machine
end
